-- ==== Sys2Proof/Word.lean ====
section
/-! DEFINITION. The word types of the link frames (R165, R166): bytes, the 2-byte and 4-byte unsigned numbers,
and the 64-bit tag. -/
namespace Sys2Proof

/-- One byte of a frame. -/
abbrev Byte := BitVec 8

/-- A number carried in 2 bytes. -/
abbrev U16 := BitVec 16

/-- A number carried in 4 bytes: a section time or a pass serial. -/
abbrev U32 := BitVec 32

/-- The 64-bit serial number of a tag; any value is a valid tag. -/
abbrev Tag := BitVec 64

end Sys2Proof
end

