-- ==== Sys2Proof/Config.lean ====
section
/-! DEFINITION. The capacities, limits and parameter ranges that the manual fixes for the SR-280. No value here is
a choice of the model: each names its rule. The manual leaves no value open that a command reads, so there is no
free value. -/
namespace Sys2Proof.Config

/-- Runs of the section (R42). -/
abbrev runCount : Nat := 280
/-- Bays of the section (1.5). -/
abbrev bayCount : Nat := 40
/-- Shelves of one bay (1.5). -/
abbrev shelvesPerBay : Nat := 7
/-- Places of the entry pool (R20). -/
abbrev poolPlaces : Nat := 12288
/-- The most entries of one run (R21). -/
abbrev runCapacity : Nat := 240
/-- The most records of the Stray List (R104). -/
abbrev strayCapacity : Nat := 512
/-- The most records of the Discrepancy Queue (R141). -/
abbrev queueCapacity : Nat := 256
/-- The most prompts of a prompt queue (R147). -/
abbrev promptCapacity : Nat := 4
/-- The most contexts of a context stack (R126). -/
abbrev stackCapacity : Nat := 3
/-- Frames of a receive buffer, and the most BUSY answers that wait for one line (R168). -/
abbrev bufferCapacity : Nat := 2
/-- Where the pass counters and the overflow count saturate (R51, R141). -/
abbrev counterMax : Nat := 65535
/-- Where the sighting count of a stray saturates (R103). -/
abbrev sightingCountMax : Nat := 255
/-- The greatest device pass serial (R43). -/
abbrev serialMax : Nat := 4294967295
/-- The shortest and longest run, in millimetres (R46). -/
abbrev lengthMin : Nat := 300
abbrev lengthMax : Nat := 1500
/-- The ordinals READ_ENTRY and READ_STRAY take (R38, R114). -/
abbrev entryOrdinals : Nat := 240
abbrev strayOrdinals : Nat := 512
/-- The greatest length byte of a frame (R165). -/
abbrev frameLengthMax : Nat := 250

/-- The five configuration parameters (R155). -/
structure Params where
  debounceSpan : Nat
  gapLimit : Nat
  backtrackTolerance : Nat
  claimInterval : Nat
  passLimit : Nat
  deriving DecidableEq, Repr

/-- The defaults of R155. -/
def Params.default : Params where
  debounceSpan := 40
  gapLimit := 150
  backtrackTolerance := 60
  claimInterval := 120
  passLimit := 3

end Sys2Proof.Config
end

