-- ==== Sys2Proof/Syntax.lean ====
section
/-! DEFINITION. The commands: one constructor of `Instr` for each row of spec/opcode_table.json. A request carries the
link port it arrives on and its operands exactly as the frame carries them (R166, R169), so that values out of range
are commands too and meet the tests their rules give. -/
namespace Sys2Proof

/-- The six link ports (1.2, R164). -/
inductive Port where
  | lp0 | lp1 | lp2 | lp3 | lp4 | lp5
  deriving DecidableEq, Repr

/-- The four wand ports (R164). -/
inductive WandPort where
  | lp0 | lp1 | lp2 | lp3
  deriving DecidableEq, Repr

/-- The role that a port's number fixes (R164). -/
inductive Role where
  | wand | circulation | supervisor
  deriving DecidableEq, Repr

/-- A run number (1.5): bay × 7 + shelf. -/
abbrev RunNo := Fin 280

/-- A bay number (1.5). -/
abbrev Bay := Fin 40

/-- A travel direction (1.5). -/
inductive Direction where
  | forward | reverse
  deriving DecidableEq, Repr

/-- The six BCD digit positions of a carried digit string, the first digit in the high half of the first byte
(R166). A position may hold 10 to 15. -/
structure Digits where
  d1 : BitVec 4
  d2 : BitVec 4
  d3 : BitVec 4
  d4 : BitVec 4
  d5 : BitVec 4
  d6 : BitVec 4
  deriving DecidableEq, Repr

/-- A cutter as a frame carries it (R2): letter position, digit count, six digit positions. -/
structure CarriedCutter where
  letter : Byte
  count : Byte
  digits : Digits
  deriving DecidableEq, Repr

/-- A shelf key as a frame carries it: the 24 bytes of R166. -/
structure CarriedKey where
  letter1 : Byte
  letter2 : Byte
  letter3 : Byte
  classInteger : U16
  fractionCount : Byte
  fraction : Digits
  cutter1 : CarriedCutter
  cutter2 : CarriedCutter
  year : U16
  volume : U16
  /-- Byte 23, ignored on receipt (R166). -/
  spare : Byte
  deriving DecidableEq, Repr

/-- One sighting of a SIGHT (R79, R166). -/
structure Sighting where
  tag : Tag
  position : U16
  deriving DecidableEq, Repr

/-- The kinds of request (R169). -/
inductive RequestKind where
  | configure | start | pause | continueCount | closeSection | wipe | deviceReset | status | totals
  | loadRun | loadItem | loadDone | unloadRun | closeRun | resetPasses | forceRelease
  | readRun | readEntry | readStray | readDiscrepancy | locate
  | setDivert | divert
  | setWindow | setDirection | claim | claimNext | sight | runEnd | runAbandon | resume | queryRun
  | queryItem | setMask
  | loan | returnItem
  deriving DecidableEq, Repr

/-- The commands of the SR-280: the requests of its partners, and the events of its clock, its operations in flight,
its lines and its pins. -/
inductive Instr where
  | configure (port : Port) (debounce gap backtrack interval passes : U16)
  | start (port : Port)
  | pause (port : Port)
  | continueCount (port : Port)
  | closeSection (port : Port)
  /-- The close in flight completes (R158). -/
  | closeCompletion
  | wipe (port : Port)
  /-- The wipe in flight completes (R159). -/
  | wipeCompletion
  | deviceReset (port : Port)
  /-- The last byte of the response to DEVICE_RESET leaves and the reset takes effect (R161). -/
  | deviceResetEffect
  | status (port : Port)
  | totals (port : Port)
  | loadRun (port : Port) (run : U16) (lower upper : CarriedKey) (length : U16)
  | loadItem (port : Port) (run : U16) (tag : Tag) (key : CarriedKey) (initial : Byte)
  | loadDone (port : Port) (run : U16)
  | unloadRun (port : Port) (run : U16)
  | closeRun (port : Port) (run : U16)
  | resetPasses (port : Port) (run : U16)
  | forceRelease (port : Port) (run : U16)
  | readRun (port : Port) (run : U16)
  | readEntry (port : Port) (run : U16) (ordinal : Byte)
  | readStray (port : Port) (ordinal : U16)
  | readDiscrepancy (port : Port)
  | locate (port : Port) (key : CarriedKey)
  | setDivert (port : Port) (wand bayA bayB direction : Byte)
  | divert (port : Port) (wand : Byte)
  | setWindow (port : Port) (bayA bayB : Byte)
  | setDirection (port : Port) (direction : Byte)
  | claim (port : Port) (index : Byte)
  | claimNext (port : Port)
  | sight (port : Port) (sightings : List Sighting)
  | runEnd (port : Port) (run : U16)
  | runAbandon (port : Port) (run : U16)
  | resume (port : Port)
  | queryRun (port : Port) (index : Byte)
  | queryItem (port : Port) (tag : Tag)
  | setMask (port : Port) (kinds : U16)
  | loan (port : Port) (tag : Tag)
  | returnItem (port : Port) (tag : Tag)
  /-- One second passes (R156). -/
  | sectionClockAdvance
  /-- The claims whose running timers the last advance brought to 0 expire (R55). -/
  | claimExpiry
  /-- The bytes of one complete frame arrive on the port's receive line, and the frame is offered to the receive
  buffer (R167, R168). -/
  | frameReceived (port : Port) (bytes : List Byte)
  /-- The handling of the oldest unhandled frame finds a bad check, an unknown kind or a wrong length (R168). -/
  | frameRejected (port : Port)
  /-- 5 ms pass after the last byte of an incomplete frame (R167). -/
  | frameTimeout (port : Port)
  /-- The transmit line sends the last byte of its frame (R149). -/
  | transmitFrameEnd (port : Port)
  /-- The receive line has been low for 50 µs (R170). -/
  | portReset (port : Port)
  | powerOn
  /-- RST_N has been low for 10 µs (R172). -/
  | externalReset
  /-- RST_N returns high (R172). -/
  | resetRelease
  /-- A byte 0xA5 arrives (R167). -/
  | startByte (port : Port)
  /-- A length byte of 0 or above 250 arrives (R167). -/
  | frameLengthInvalid (port : Port) (length : Byte)
  /-- The receive line returns high after a break (R170). -/
  | breakEnd (port : Port)
  /-- 2 ms have passed since the start of the part (R172). -/
  | receiveEnable
  deriving DecidableEq, Repr

end Sys2Proof
end

