-- ==== Sys2Proof/WellFormed.lean ====
section
/-! DEFINITION. Which commands a partner or a line can present as what they are. Every operand type holds exactly the
values its bytes can carry, so only three commands have a check: a SIGHT holds 1 to 8 sightings (R79), the bytes of a
FRAME_RECEIVED are one whole frame (R165), and the length byte of a FRAME_LENGTH_INVALID is 0 or above 250 (R167). -/
namespace Sys2Proof

/-- The bytes are one whole frame of R165: the start byte, a length N from 1 to 250, and N + 2 further bytes. -/
def wholeFrame (bytes : List Byte) : Bool :=
  match bytes with
  | start :: length :: rest =>
    start == 0xA5 && decide (1 ≤ length.toNat) && decide (length.toNat ≤ Config.frameLengthMax) &&
      rest.length == length.toNat + 2
  | _ => false

/-- The commands that can occur as their row describes them. -/
def Instr.wellFormed : Instr → Bool
  | .sight _ sightings => decide (1 ≤ sightings.length) && decide (sightings.length ≤ 8)
  | .frameReceived _ bytes => wholeFrame bytes
  | .frameLengthInvalid _ length => decide (length.toNat = 0) || decide (Config.frameLengthMax < length.toNat)
  | .configure .. => true
  | .start .. => true
  | .pause .. => true
  | .continueCount .. => true
  | .closeSection .. => true
  | .closeCompletion => true
  | .wipe .. => true
  | .wipeCompletion => true
  | .deviceReset .. => true
  | .deviceResetEffect => true
  | .status .. => true
  | .totals .. => true
  | .loadRun .. => true
  | .loadItem .. => true
  | .loadDone .. => true
  | .unloadRun .. => true
  | .closeRun .. => true
  | .resetPasses .. => true
  | .forceRelease .. => true
  | .readRun .. => true
  | .readEntry .. => true
  | .readStray .. => true
  | .readDiscrepancy .. => true
  | .locate .. => true
  | .setDivert .. => true
  | .divert .. => true
  | .setWindow .. => true
  | .setDirection .. => true
  | .claim .. => true
  | .claimNext .. => true
  | .runEnd .. => true
  | .runAbandon .. => true
  | .resume .. => true
  | .queryRun .. => true
  | .queryItem .. => true
  | .setMask .. => true
  | .loan .. => true
  | .returnItem .. => true
  | .sectionClockAdvance => true
  | .claimExpiry => true
  | .frameRejected .. => true
  | .frameTimeout .. => true
  | .transmitFrameEnd .. => true
  | .portReset .. => true
  | .powerOn => true
  | .externalReset => true
  | .resetRelease => true
  | .startByte .. => true
  | .breakEnd .. => true
  | .receiveEnable => true

end Sys2Proof
end

