-- ==== Sys2Proof/Decode.lean ====
section
/-! DEFINITION. How the commands are spelled on the wire. No row of spec/opcode_table.json gives bits, so
`decodeTableWord` reads no command from a table word. What the links carry are request frames: this file holds the
kind values and payload lengths of R169 and the payload layouts of R166 and R169, in both directions. -/
namespace Sys2Proof

/-- The table gives no row bits, so no word of it spells a command. -/
def decodeTableWord (_nbits _w : Nat) : Option Instr := none

/-! ## Multi-byte numbers, most significant byte first (R165) -/

def u16Bytes (x : U16) : List Byte := [x.extractLsb' 8 8, x.extractLsb' 0 8]

def u32Bytes (x : U32) : List Byte :=
  [x.extractLsb' 24 8, x.extractLsb' 16 8, x.extractLsb' 8 8, x.extractLsb' 0 8]

def tagBytes (x : Tag) : List Byte :=
  [x.extractLsb' 56 8, x.extractLsb' 48 8, x.extractLsb' 40 8, x.extractLsb' 32 8,
    x.extractLsb' 24 8, x.extractLsb' 16 8, x.extractLsb' 8 8, x.extractLsb' 0 8]

def u16Of (hi lo : Byte) : U16 := hi ++ lo

def tagOf (b0 b1 b2 b3 b4 b5 b6 b7 : Byte) : Tag :=
  b0 ++ (b1 ++ (b2 ++ (b3 ++ (b4 ++ (b5 ++ (b6 ++ b7))))))

/-! ## The shelf key in 24 bytes (R166) -/

/-- Two digit positions to a byte, the earlier digit in the high half. -/
def digitBytes (d : Digits) : List Byte := [d.d1 ++ d.d2, d.d3 ++ d.d4, d.d5 ++ d.d6]

def digitsOf (x y z : Byte) : Digits where
  d1 := x.extractLsb' 4 4
  d2 := x.extractLsb' 0 4
  d3 := y.extractLsb' 4 4
  d4 := y.extractLsb' 0 4
  d5 := z.extractLsb' 4 4
  d6 := z.extractLsb' 0 4

def cutterBytes (c : CarriedCutter) : List Byte := [c.letter, c.count] ++ digitBytes c.digits

def keyBytes (k : CarriedKey) : List Byte :=
  [k.letter1, k.letter2, k.letter3] ++ u16Bytes k.classInteger ++ [k.fractionCount] ++ digitBytes k.fraction ++
    cutterBytes k.cutter1 ++ cutterBytes k.cutter2 ++ u16Bytes k.year ++ u16Bytes k.volume ++ [k.spare]

/-- Reads the 24 bytes of a shelf key off the front of a payload. -/
def takeKey : List Byte → Option (CarriedKey × List Byte)
  | b0 :: b1 :: b2 :: b3 :: b4 :: b5 :: b6 :: b7 :: b8 :: b9 :: b10 :: b11 :: b12 :: b13 :: b14 :: b15 :: b16 ::
      b17 :: b18 :: b19 :: b20 :: b21 :: b22 :: b23 :: rest =>
    some ({ letter1 := b0, letter2 := b1, letter3 := b2, classInteger := u16Of b3 b4,
            fractionCount := b5, fraction := digitsOf b6 b7 b8,
            cutter1 := { letter := b9, count := b10, digits := digitsOf b11 b12 b13 },
            cutter2 := { letter := b14, count := b15, digits := digitsOf b16 b17 b18 },
            year := u16Of b19 b20, volume := u16Of b21 b22, spare := b23 }, rest)
  | _ => none

/-! ## Sightings in 10 bytes each (R166) -/

def sightingBytes (x : Sighting) : List Byte := tagBytes x.tag ++ u16Bytes x.position

/-- Reads a payload that is a whole number of sightings. -/
def sightingsOf : List Byte → Option (List Sighting)
  | [] => some []
  | b0 :: b1 :: b2 :: b3 :: b4 :: b5 :: b6 :: b7 :: b8 :: b9 :: rest =>
    (sightingsOf rest).map
      ({ tag := tagOf b0 b1 b2 b3 b4 b5 b6 b7, position := u16Of b8 b9 } :: ·)
  | _ => none

/-! ## Kind values and payload lengths (R169) -/

def RequestKind.code : RequestKind → Byte
  | .configure => 0x01
  | .start => 0x02
  | .pause => 0x03
  | .continueCount => 0x04
  | .closeSection => 0x05
  | .wipe => 0x06
  | .deviceReset => 0x07
  | .status => 0x08
  | .totals => 0x09
  | .loadRun => 0x10
  | .loadItem => 0x11
  | .loadDone => 0x12
  | .unloadRun => 0x13
  | .closeRun => 0x14
  | .resetPasses => 0x15
  | .forceRelease => 0x16
  | .readRun => 0x17
  | .readEntry => 0x18
  | .readStray => 0x19
  | .readDiscrepancy => 0x1A
  | .locate => 0x1B
  | .setDivert => 0x20
  | .divert => 0x21
  | .setWindow => 0x30
  | .setDirection => 0x31
  | .claim => 0x32
  | .claimNext => 0x33
  | .sight => 0x34
  | .runEnd => 0x35
  | .runAbandon => 0x36
  | .resume => 0x37
  | .queryRun => 0x38
  | .queryItem => 0x40
  | .setMask => 0x41
  | .loan => 0x50
  | .returnItem => 0x51

/-- Every kind of request, in the order of the kind values. -/
def RequestKind.all : List RequestKind :=
  [.configure, .start, .pause, .continueCount, .closeSection, .wipe, .deviceReset, .status, .totals, .loadRun,
    .loadItem, .loadDone, .unloadRun, .closeRun, .resetPasses, .forceRelease, .readRun, .readEntry, .readStray,
    .readDiscrepancy, .locate, .setDivert, .divert, .setWindow, .setDirection, .claim, .claimNext, .sight, .runEnd,
    .runAbandon, .resume, .queryRun, .queryItem, .setMask, .loan, .returnItem]

/-- The kind a kind byte names; `none` for every value that R169 answers UNKNOWN. -/
def RequestKind.ofByte? (b : Byte) : Option RequestKind := RequestKind.all.find? fun k => k.code == b

/-- The length check of R168: the payload length that R169 gives for the kind. -/
def RequestKind.lengthOk : RequestKind → Nat → Bool
  | .configure, n => n == 10
  | .loadRun, n => n == 52
  | .loadItem, n => n == 35
  | .loadDone, n => n == 2
  | .unloadRun, n => n == 2
  | .closeRun, n => n == 2
  | .resetPasses, n => n == 2
  | .forceRelease, n => n == 2
  | .readRun, n => n == 2
  | .readEntry, n => n == 3
  | .readStray, n => n == 2
  | .locate, n => n == 24
  | .setDivert, n => n == 4
  | .divert, n => n == 1
  | .setWindow, n => n == 2
  | .setDirection, n => n == 1
  | .claim, n => n == 1
  | .sight, n => [10, 20, 30, 40, 50, 60, 70, 80].contains n
  | .runEnd, n => n == 2
  | .runAbandon, n => n == 2
  | .queryRun, n => n == 1
  | .queryItem, n => n == 8
  | .setMask, n => n == 2
  | .loan, n => n == 8
  | .returnItem, n => n == 8
  | .start, n => n == 0
  | .pause, n => n == 0
  | .continueCount, n => n == 0
  | .closeSection, n => n == 0
  | .wipe, n => n == 0
  | .deviceReset, n => n == 0
  | .status, n => n == 0
  | .totals, n => n == 0
  | .readDiscrepancy, n => n == 0
  | .claimNext, n => n == 0
  | .resume, n => n == 0

/-! ## A request as its frame, and back (R169) -/

/-- The port, the kind and the payload of the frame that carries a request; `none` for an event, which no frame
carries. -/
def Instr.request : Instr → Option (Port × RequestKind × List Byte)
  | .configure p a b c d e =>
    some (p, .configure, u16Bytes a ++ u16Bytes b ++ u16Bytes c ++ u16Bytes d ++ u16Bytes e)
  | .start p => some (p, .start, [])
  | .pause p => some (p, .pause, [])
  | .continueCount p => some (p, .continueCount, [])
  | .closeSection p => some (p, .closeSection, [])
  | .wipe p => some (p, .wipe, [])
  | .deviceReset p => some (p, .deviceReset, [])
  | .status p => some (p, .status, [])
  | .totals p => some (p, .totals, [])
  | .loadRun p run lower upper length =>
    some (p, .loadRun, u16Bytes run ++ keyBytes lower ++ keyBytes upper ++ u16Bytes length)
  | .loadItem p run tag key initial => some (p, .loadItem, u16Bytes run ++ tagBytes tag ++ keyBytes key ++ [initial])
  | .loadDone p run => some (p, .loadDone, u16Bytes run)
  | .unloadRun p run => some (p, .unloadRun, u16Bytes run)
  | .closeRun p run => some (p, .closeRun, u16Bytes run)
  | .resetPasses p run => some (p, .resetPasses, u16Bytes run)
  | .forceRelease p run => some (p, .forceRelease, u16Bytes run)
  | .readRun p run => some (p, .readRun, u16Bytes run)
  | .readEntry p run ordinal => some (p, .readEntry, u16Bytes run ++ [ordinal])
  | .readStray p ordinal => some (p, .readStray, u16Bytes ordinal)
  | .readDiscrepancy p => some (p, .readDiscrepancy, [])
  | .locate p key => some (p, .locate, keyBytes key)
  | .setDivert p w a b d => some (p, .setDivert, [w, a, b, d])
  | .divert p w => some (p, .divert, [w])
  | .setWindow p a b => some (p, .setWindow, [a, b])
  | .setDirection p d => some (p, .setDirection, [d])
  | .claim p i => some (p, .claim, [i])
  | .claimNext p => some (p, .claimNext, [])
  | .sight p sightings => some (p, .sight, sightings.flatMap sightingBytes)
  | .runEnd p run => some (p, .runEnd, u16Bytes run)
  | .runAbandon p run => some (p, .runAbandon, u16Bytes run)
  | .resume p => some (p, .resume, [])
  | .queryRun p i => some (p, .queryRun, [i])
  | .queryItem p tag => some (p, .queryItem, tagBytes tag)
  | .setMask p kinds => some (p, .setMask, u16Bytes kinds)
  | .loan p tag => some (p, .loan, tagBytes tag)
  | .returnItem p tag => some (p, .returnItem, tagBytes tag)
  | .closeCompletion => none
  | .wipeCompletion => none
  | .deviceResetEffect => none
  | .sectionClockAdvance => none
  | .claimExpiry => none
  | .frameReceived _ _ => none
  | .frameRejected _ => none
  | .frameTimeout _ => none
  | .transmitFrameEnd _ => none
  | .portReset _ => none
  | .powerOn => none
  | .externalReset => none
  | .resetRelease => none
  | .startByte _ => none
  | .frameLengthInvalid _ _ => none
  | .breakEnd _ => none
  | .receiveEnable => none

/-- A payload that is one tag. -/
def takeTag (make : Tag → Instr) : List Byte → Option Instr
  | [b0, b1, b2, b3, b4, b5, b6, b7] => some (make (tagOf b0 b1 b2 b3 b4 b5 b6 b7))
  | _ => none

/-- A payload that is one 2-byte number. -/
def takeU16 (make : U16 → Instr) : List Byte → Option Instr
  | [hi, lo] => some (make (u16Of hi lo))
  | _ => none

/-- A payload that is one byte. -/
def takeByte (make : Byte → Instr) : List Byte → Option Instr
  | [b] => some (make b)
  | _ => none

/-- An empty payload. -/
def takeNothing (c : Instr) : List Byte → Option Instr
  | [] => some c
  | _ => none

def takeConfigure (p : Port) : List Byte → Option Instr
  | [a1, a0, b1, b0, c1, c0, d1, d0, e1, e0] =>
    some (.configure p (u16Of a1 a0) (u16Of b1 b0) (u16Of c1 c0) (u16Of d1 d0) (u16Of e1 e0))
  | _ => none

def takeLoadRun (p : Port) : List Byte → Option Instr
  | r1 :: r0 :: rest =>
    match takeKey rest with
    | some (lower, rest) =>
      match takeKey rest with
      | some (upper, [l1, l0]) => some (.loadRun p (u16Of r1 r0) lower upper (u16Of l1 l0))
      | _ => none
    | none => none
  | _ => none

def takeLoadItem (p : Port) : List Byte → Option Instr
  | r1 :: r0 :: b0 :: b1 :: b2 :: b3 :: b4 :: b5 :: b6 :: b7 :: rest =>
    match takeKey rest with
    | some (key, [initial]) => some (.loadItem p (u16Of r1 r0) (tagOf b0 b1 b2 b3 b4 b5 b6 b7) key initial)
    | _ => none
  | _ => none

def takeReadEntry (p : Port) : List Byte → Option Instr
  | [r1, r0, o] => some (.readEntry p (u16Of r1 r0) o)
  | _ => none

def takeLocate (p : Port) (payload : List Byte) : Option Instr :=
  match takeKey payload with
  | some (key, []) => some (.locate p key)
  | _ => none

def takeSetDivert (p : Port) : List Byte → Option Instr
  | [w, a, b, d] => some (.setDivert p w a b d)
  | _ => none

def takeSetWindow (p : Port) : List Byte → Option Instr
  | [a, b] => some (.setWindow p a b)
  | _ => none

def takeSight (p : Port) (payload : List Byte) : Option Instr :=
  match sightingsOf payload with
  | some sightings => if 1 ≤ sightings.length ∧ sightings.length ≤ 8 then some (.sight p sightings) else none
  | none => none

/-- The request that a payload of the given kind carries on a port; `none` where the payload has not the length of
R169. -/
def decodeRequest (p : Port) : RequestKind → List Byte → Option Instr
  | .configure => takeConfigure p
  | .start => takeNothing (.start p)
  | .pause => takeNothing (.pause p)
  | .continueCount => takeNothing (.continueCount p)
  | .closeSection => takeNothing (.closeSection p)
  | .wipe => takeNothing (.wipe p)
  | .deviceReset => takeNothing (.deviceReset p)
  | .status => takeNothing (.status p)
  | .totals => takeNothing (.totals p)
  | .loadRun => takeLoadRun p
  | .loadItem => takeLoadItem p
  | .loadDone => takeU16 (.loadDone p)
  | .unloadRun => takeU16 (.unloadRun p)
  | .closeRun => takeU16 (.closeRun p)
  | .resetPasses => takeU16 (.resetPasses p)
  | .forceRelease => takeU16 (.forceRelease p)
  | .readRun => takeU16 (.readRun p)
  | .readEntry => takeReadEntry p
  | .readStray => takeU16 (.readStray p)
  | .readDiscrepancy => takeNothing (.readDiscrepancy p)
  | .locate => takeLocate p
  | .setDivert => takeSetDivert p
  | .divert => takeByte (.divert p)
  | .setWindow => takeSetWindow p
  | .setDirection => takeByte (.setDirection p)
  | .claim => takeByte (.claim p)
  | .claimNext => takeNothing (.claimNext p)
  | .sight => takeSight p
  | .runEnd => takeU16 (.runEnd p)
  | .runAbandon => takeU16 (.runAbandon p)
  | .resume => takeNothing (.resume p)
  | .queryRun => takeByte (.queryRun p)
  | .queryItem => takeTag (.queryItem p)
  | .setMask => takeU16 (.setMask p)
  | .loan => takeTag (.loan p)
  | .returnItem => takeTag (.returnItem p)

/-- The command that a frame with this kind byte and payload asks for on a port (R168, R169). -/
def decodeFrame (p : Port) (kind : Byte) (payload : List Byte) : Option Instr :=
  (RequestKind.ofByte? kind).bind fun k => decodeRequest p k payload

end Sys2Proof
end

