-- ==== Sys2Proof/Machine/State.lean ====
section
/-! DEFINITION. Everything the SR-280 holds (1.3), as plain data: the item register, the run table, the wand contexts,
the stray list, the discrepancy queue, section control and the six link ports, with the pins that reach them, and the
queue of commands that wait. -/
namespace Sys2Proof.Machine

/-! ## Keys -/

/-- A cutter of a held key: a letter A to Z and 1 to 5 decimal digits (R1). -/
structure Cutter where
  letter : Byte
  digits : List Nat
  deriving DecidableEq, Repr

/-- A well-formed shelf key as the part holds it: the seven fields of R1. The digit strings keep their lengths. -/
structure ShelfKey where
  letters : List Byte
  classInteger : Nat
  fraction : List Nat
  cutter1 : Option Cutter
  cutter2 : Option Cutter
  year : Option Nat
  volume : Option Nat
  deriving DecidableEq, Repr

/-! ## The Item Register -/

/-- The six statuses (R32), in the order of R17. -/
inductive Status where
  | expected | shelved | displaced | onLoan | returned | missing
  deriving DecidableEq, Repr

/-- The judgements of an entry (R17). -/
inductive Judgement where
  | inOrder | ahead | behind | visitor | unjudged
  deriving DecidableEq, Repr

/-- The four flags of an entry (R18). -/
structure EntryFlags where
  loanConflict : Bool
  seenBeforeLoan : Bool
  moved : Bool
  clamped : Bool
  deriving DecidableEq, Repr

/-- Where and when an entry was last read (R19). -/
structure LastSighting where
  run : RunNo
  position : Nat
  port : WandPort
  serial : U32
  time : U32
  deriving DecidableEq, Repr

/-- An entry of the pool (R17). Its index is its place in `State.pool`. -/
structure Entry where
  tag : Tag
  key : ShelfKey
  homeRun : RunNo
  status : Status
  judgement : Option Judgement
  flags : EntryFlags
  lastSighting : Option LastSighting
  deriving DecidableEq, Repr

/-- The six tallies of one run (R33). -/
structure Tallies where
  expected : Nat
  shelved : Nat
  displaced : Nat
  onLoan : Nat
  returned : Nat
  missing : Nat
  deriving DecidableEq, Repr

/-- What the Item Register keeps for one loaded run: its ordered entry list (R21) and its tallies (R33). -/
structure Shelf where
  entries : List Nat
  tallies : Tallies
  deriving DecidableEq, Repr

/-- The shelf of a run with no entries. -/
def Shelf.empty : Shelf := { entries := [], tallies := ⟨0, 0, 0, 0, 0, 0⟩ }

/-! ## The Run Table -/

/-- The nine run states (R44). -/
inductive RunState where
  | unloaded | loading | ready | claimed | held | checked | rescan | review | closed
  deriving DecidableEq, Repr

/-- Why a pass was abandoned (R42). -/
inductive Reason where
  | runAbandon | expired | forced | portReset
  deriving DecidableEq, Repr

/-- The outcomes of a pass (R42). -/
inductive PassOutcome where
  | noPass | clean | unclean | abandoned
  deriving DecidableEq, Repr

/-- The last pass of a run (R42): a pass that has ended carries its port and serial, and an abandoned one its
reason. -/
inductive LastPass where
  | noPass
  | clean (port : WandPort) (serial : U32)
  | unclean (port : WandPort) (serial : U32)
  | abandoned (reason : Reason) (port : WandPort) (serial : U32)
  deriving DecidableEq, Repr

/-- The seven pass counters (R51). -/
structure Counters where
  inOrder : Nat
  ahead : Nat
  behind : Nat
  visitors : Nat
  strays : Nat
  gaps : Nat
  moved : Nat
  deriving DecidableEq, Repr

/-- The record of a pass in flight (R51). The anchor and the pending entry are entry indices. -/
structure PassRecord where
  serial : U32
  direction : Direction
  anchor : Option Nat
  pendingEntry : Option Nat
  lastPosition : Option Nat
  counters : Counters
  deriving DecidableEq, Repr

/-- What a CLAIMED or HELD run carries besides (R42): the claimant, the claim timer and the pass record. -/
structure Claim where
  claimant : WandPort
  timer : Nat
  pass : PassRecord
  deriving DecidableEq, Repr

/-- The state of a loaded run, with the claim of a CLAIMED or HELD one (R44). -/
inductive Stage where
  | loading | ready
  | claimed (claim : Claim)
  | held (claim : Claim)
  | checked | rescan | review | closed
  deriving DecidableEq, Repr

/-- The record of a loaded run (R42), beside the run's part of the Item Register. An UNLOADED run has neither. -/
structure LoadedRun where
  lower : ShelfKey
  upper : ShelfKey
  length : Nat
  passCount : Nat
  lastPass : LastPass
  stage : Stage
  shelf : Shelf
  deriving DecidableEq, Repr

/-! ## The Context Unit -/

/-- One of the two bays of a window. -/
inductive Side where
  | bayA | bayB
  deriving DecidableEq, Repr

/-- A shelf index of the window: 0 to 6 in bay A, 8 to 14 in bay B (R70). -/
structure ShelfIndex where
  side : Side
  shelf : Fin 7
  deriving DecidableEq, Repr

/-- A context (R69). -/
structure Context where
  bayA : Bay
  bayB : Bay
  direction : Direction
  cursor : Option ShelfIndex
  claimedRun : Option RunNo
  deriving DecidableEq, Repr

/-- A prepared context of a divert slot: it never holds a cursor or a claim (R127). -/
structure Prepared where
  bayA : Bay
  bayB : Bay
  direction : Direction
  deriving DecidableEq, Repr

/-- The context store of a wand port (R126); the top of the stack stands first. -/
structure ContextStore where
  current : Context
  stack : List Context
  slot : Option Prepared
  deriving DecidableEq, Repr

/-- The values a context store takes at reset (R78, R138). -/
def ContextStore.default : ContextStore where
  current := { bayA := 0, bayB := 1, direction := .forward, cursor := none, claimedRun := none }
  stack := []
  slot := none

/-- One value for each wand port. -/
structure WandMap (α : Type) where
  lp0 : α
  lp1 : α
  lp2 : α
  lp3 : α
  deriving DecidableEq, Repr

/-! ## The Stray List and the Discrepancy Queue -/

/-- A stray record (R103). -/
structure Stray where
  tag : Tag
  firstRun : RunNo
  firstPosition : Nat
  firstPort : WandPort
  lastRun : RunNo
  lastPosition : Nat
  lastPort : WandPort
  lastSerial : U32
  lastTime : U32
  count : Nat
  deriving DecidableEq, Repr

/-- The discrepancy kinds (R140). -/
inductive DiscrepancyKind where
  | ahead | behind | visitor | moved | gap | phantomLoan | loanConflict | returnConflict | passAbandoned | strayLost
  deriving DecidableEq, Repr

/-- A discrepancy record (R140). -/
structure Discrepancy where
  kind : DiscrepancyKind
  time : U32
  run : Option RunNo := none
  port : Option Port := none
  entry : Option Nat := none
  tag : Option Tag := none
  position : Option Nat := none
  positionTo : Option Nat := none
  runTo : Option RunNo := none
  reason : Option Reason := none
  deriving DecidableEq, Repr

/-! ## Section Control -/

/-- The device modes (R152). -/
inductive Mode where
  | halted | counting | paused | closing | closed | wiping
  deriving DecidableEq, Repr

/-- The operations in flight (R151). -/
inductive Operation where
  | close | wipe
  deriving DecidableEq, Repr

/-! ## Notices -/

/-- The nine notice kinds (R145), in the order of their values. -/
inductive NoticeKind where
  | pull | gap | diverted | released | mode | passDone | queueFull | strayFull | opDone
  deriving DecidableEq, Repr

/-- A prompt (R145). The judgement of a PULL is absent for a stray. -/
inductive Prompt where
  | pull (tag : Tag) (position : Nat) (judgement : Option Judgement)
  | gap (positionFrom positionTo : Nat)
  deriving DecidableEq, Repr

/-- A held notice with its parameter (R145). -/
inductive HeldNotice where
  | diverted (context : Prepared)
  | released (run : RunNo) (reason : Reason)
  | mode (mode : Mode)
  | passDone (run : RunNo) (outcome : PassOutcome)
  | queueFull
  | strayFull
  | opDone (operation : Operation)
  deriving DecidableEq, Repr

/-- The pending flag and latest parameter of each held kind on one port (R148); a flag that is set is a value that is
present. -/
structure HeldFlags where
  diverted : Option Prepared
  released : Option (RunNo × Reason)
  mode : Option Mode
  passDone : Option (RunNo × PassOutcome)
  queueFull : Bool
  strayFull : Bool
  opDone : Option Operation
  deriving DecidableEq, Repr

/-- No held notice pending. -/
def HeldFlags.clear : HeldFlags where
  diverted := none
  released := none
  mode := none
  passDone := none
  queueFull := false
  strayFull := false
  opDone := none

/-! ## Responses -/

/-- The conditions of a response (R169), in the order of their values. -/
inductive Condition where
  | ok | frame | unknown | length | role | mode | busy | range | state | noClaim | holding | notClaimant | key
  | limits | order | dupTag | full | notListed | depth | empty | none
  deriving DecidableEq, Repr

/-- What a sighting came to (R80). -/
inductive SightOutcome where
  | backtrack | inRun | visitor | absorbed | moved | strayNew | strayAgain | strayLost
  deriving DecidableEq, Repr

/-- A working index as it resolves: one shelf, or a whole bay (R70). -/
inductive WorkingIndex where
  | shelf (index : ShelfIndex)
  | wholeBay (side : Side)
  deriving DecidableEq, Repr

/-- The items of a CLAIM response (R50). -/
structure ClaimReport where
  run : RunNo
  serial : U32
  passCount : Nat
  direction : Direction
  length : Nat
  itemCount : Nat
  deriving DecidableEq, Repr

/-- The entry report of R37. -/
structure EntryReport where
  index : Nat
  entry : Entry
  pendingIn : Option RunNo
  deriving DecidableEq, Repr

/-- What READ_RUN reports of a loaded run besides its record (R66). -/
structure RunFigures where
  record : LoadedRun
  itemCount : Nat
  completion : Nat
  timerRunning : Bool
  deriving DecidableEq, Repr

/-- What QUERY_RUN reports of one loaded shelf (R76). -/
structure ShelfFigures where
  itemCount : Nat
  tallies : Tallies
  completion : Nat
  passCount : Nat
  lastOutcome : PassOutcome
  deriving DecidableEq, Repr

/-- The whole-bay report of R77. -/
structure BayReport where
  side : Side
  bay : Bay
  runs : List (RunNo × RunState)
  sums : Tallies
  itemCount : Nat
  completion : Nat
  deriving DecidableEq, Repr

/-- The preceding run of a LOCATE (R13): absent, "none", or a run. -/
inductive Preceding where
  | absent
  | noRun
  | run (run : RunNo)
  deriving DecidableEq, Repr

/-- The items of a LOAN or RETURN response that both carry (R125). -/
structure CirculationReport where
  index : Nat
  homeRun : RunNo
  found : Status
  after : Status
  flags : EntryFlags
  record : Option DiscrepancyKind
  deriving DecidableEq, Repr

/-- The claim part of a RESUME response (R133). -/
structure ResumedClaim where
  run : RunNo
  serial : U32
  passCount : Nat
  lastPosition : Option Nat
  deriving DecidableEq, Repr

/-- The data of a response, as the rule of its request lists them. -/
inductive Data where
  | empty
  /-- CONFIGURE (R155). -/
  | configured (params : Config.Params)
  /-- START (R153). -/
  | started (clock : U32) (params : Config.Params)
  /-- PAUSE and CONTINUE (R154). -/
  | clock (clock : U32)
  /-- CLOSE_SECTION (R157). -/
  | closing (expectedEntries runsToClose : Nat)
  /-- STATUS (R162). -/
  | status (mode : Mode) (operation : Option Operation) (clock serial : U32)
      (entries strays records overflow : Nat)
  /-- TOTALS (R163); the nine counts stand in the order of the run states. -/
  | totals (sums : Tallies) (states : List Nat) (completion : Nat)
  /-- LOAD_RUN (R46). -/
  | length (length : Nat)
  /-- LOAD_ITEM (R28); the run and position stand for an adoption. -/
  | itemLoaded (index : Nat) (status : Status) (judgement : Option Judgement) (adopted : Option (RunNo × Nat))
  /-- LOAD_DONE (R47), and READ_ENTRY past the end of a list (R38). -/
  | itemCount (count : Nat)
  /-- UNLOAD_RUN (R31). -/
  | freed (count : Nat)
  /-- CLOSE_RUN (R64). -/
  | runClosed (run : RunNo) (completion : Nat)
  /-- RESET_PASSES (R63). -/
  | run (run : RunNo)
  /-- FORCE_RELEASE (R60). -/
  | released (run : RunNo) (claimant : WandPort) (state : RunState)
  /-- READ_RUN (R66). -/
  | runReport (run : RunNo) (figures : Option RunFigures)
  /-- READ_ENTRY (R38). -/
  | entryInList (report : EntryReport) (itemCount : Nat)
  /-- QUERY_ITEM (R36). -/
  | entry (report : EntryReport)
  /-- READ_STRAY (R114). -/
  | stray (record : Stray) (count : Nat)
  /-- READ_STRAY past the end of the list (R114). -/
  | strayCount (count : Nat)
  /-- READ_DISCREPANCY (R142). -/
  | discrepancy (record : Discrepancy) (left overflow : Nat)
  /-- READ_DISCREPANCY of an empty queue (R142). -/
  | queueEmpty (overflow : Nat)
  /-- LOCATE (R13). -/
  | located (count : Nat) (runs : List RunNo) (preceding : Preceding)
  /-- SET_DIVERT (R128). -/
  | slotFilled (port : WandPort) (context : Prepared) (replaced : Bool)
  /-- DIVERT (R130). -/
  | diverted (port : WandPort) (depth : Nat) (held : Option RunNo) (context : Prepared)
  /-- SET_WINDOW (R71). -/
  | window (bayA bayB : Bay) (direction : Direction)
  /-- SET_DIRECTION (R72). -/
  | direction (direction : Direction)
  /-- CLAIM (R50). -/
  | claimed (report : ClaimReport)
  /-- CLAIM_NEXT (R74). -/
  | claimedNext (index : ShelfIndex) (report : ClaimReport)
  /-- SIGHT (R80). -/
  | sighted (outcomes : List (SightOutcome × Bool)) (lastPosition : Option Nat)
  /-- RUN_END (R57). -/
  | passEnded (run : RunNo) (outcome : PassOutcome) (state : RunState) (passCount : Nat) (counters : Counters)
  /-- RUN_ABANDON (R59). -/
  | passAbandoned (run : RunNo) (state : RunState) (passCount : Nat) (counters : Counters)
  /-- RESUME (R133). -/
  | resumed (bayA bayB : Bay) (direction : Direction) (cursor : Option ShelfIndex) (claim : Option ResumedClaim)
      (left : Nat)
  /-- QUERY_RUN of one shelf (R76); the Bool says whether the claimant is the requesting port. -/
  | shelfReport (index : ShelfIndex) (run : RunNo) (state : RunState) (figures : Option ShelfFigures)
      (claimant : Option (WandPort × Bool))
  /-- QUERY_RUN of a whole bay (R77). -/
  | bayReport (report : BayReport)
  /-- SET_MASK (R146): the mask now in force and the held kinds pending. -/
  | masks (mask heldPending : BitVec 9)
  /-- LOAN (R125); the run is the one from whose slot the entry was withdrawn. -/
  | lent (report : CirculationReport) (withdrawnFrom : Option RunNo)
  /-- RETURN (R125). -/
  | returned (report : CirculationReport)
  deriving DecidableEq, Repr

/-- A response (R165): the kind byte echoed, the condition and the data. -/
structure Response where
  kind : Byte
  condition : Condition
  data : Data
  deriving DecidableEq, Repr

/-! ## The link ports -/

/-- A frame as its bytes give it (R165): the kind, the payload and the check as received. -/
structure Frame where
  kind : Byte
  payload : List Byte
  check : U16
  deriving DecidableEq, Repr

/-- The receive side of a port (R167): hunting, or collecting the bytes of a frame from its start byte on. -/
inductive Receiver where
  | hunting
  | collecting (bytes : List Byte)
  deriving DecidableEq, Repr

/-- How far a received frame has come (R168). -/
inductive SlotPhase where
  | unhandled
  /-- Its response awaits the transmit line. -/
  | waiting (response : Response)
  /-- Its response is on the transmit line. -/
  | sending (response : Response)
  deriving DecidableEq, Repr

/-- A frame that a port has received and whose response has not been sent to its last byte: a frame of the receive
buffer, or one that a full buffer turned away with BUSY (R168). -/
structure Slot where
  frame : Frame
  buffered : Bool
  phase : SlotPhase
  deriving DecidableEq, Repr

/-- The transmit line (R149). While a response is sent, it stands in the slot that is `sending`. -/
inductive Line where
  | idle
  | response
  | prompt (prompt : Prompt)
  | held (notice : HeldNotice)
  deriving DecidableEq, Repr

/-- One link port (1.3). `inbox` holds the received frames not yet done with, the earliest first: the receive buffer
is its buffered slots, and the responses awaiting transmission are those of its waiting slots. -/
structure LinkPort where
  receiver : Receiver
  inbox : List Slot
  line : Line
  /-- Bit k masks the notice kind of value 0x80 + k (R166). -/
  mask : BitVec 9
  held : HeldFlags
  prompts : List Prompt
  deriving DecidableEq, Repr

/-- The values a port takes at reset (R150, R167). -/
def LinkPort.default : LinkPort where
  receiver := .hunting
  inbox := []
  line := .idle
  mask := 0
  held := .clear
  prompts := []

/-- One value for each link port. -/
structure PortMap (α : Type) where
  lp0 : α
  lp1 : α
  lp2 : α
  lp3 : α
  lp4 : α
  lp5 : α
  deriving DecidableEq, Repr

/-- The levels of the pins that the part does not drive: RST_N, and the receive lines in a break (R170, R172). -/
structure Pins where
  resetLow : Bool
  breakLow : PortMap Bool
  deriving DecidableEq, Repr

/-! ## The whole part -/

/-- The state of the SR-280. -/
structure State where
  /-- The commands that wait, the first to be taken first. The model's own: see notes/assumptions/1.md. -/
  pending : List Instr
  pins : Pins
  /-- Whether the part receives bytes: false until 2 ms after its start (R172). -/
  receiving : Bool
  mode : Mode
  config : Config.Params
  /-- The section clock (R156). -/
  clock : U32
  operation : Option Operation
  /-- A DEVICE_RESET has been answered and has not taken effect (R161). -/
  resetScheduled : Bool
  /-- The entry pool (R20): the entries in use with their indices, the lowest index first. -/
  pool : List (Nat × Entry)
  /-- The Run Table and the run entry lists: the loaded runs, the lowest number first. A run not listed is
  UNLOADED. -/
  runs : List (RunNo × LoadedRun)
  /-- The device pass serial (R43). -/
  passSerial : U32
  wands : WandMap ContextStore
  /-- The Stray List (R104), by ordinal. -/
  strays : List Stray
  /-- The Discrepancy Queue (R141), its head first. -/
  discrepancies : List Discrepancy
  overflow : Nat
  ports : PortMap LinkPort
  deriving DecidableEq, Repr

/-- The part right after power-on: it has started with its power-on values and does not yet receive bytes (R172,
R39, R67, R115, R144, R138, R78, R150, R151, R167). -/
def State.reset : State where
  pending := []
  pins := { resetLow := false, breakLow := ⟨false, false, false, false, false, false⟩ }
  receiving := false
  mode := .halted
  config := .default
  clock := 0
  operation := none
  resetScheduled := false
  pool := []
  runs := []
  passSerial := 0
  wands := ⟨.default, .default, .default, .default⟩
  strays := []
  discrepancies := []
  overflow := 0
  ports := ⟨.default, .default, .default, .default, .default, .default⟩

/-- Why a command could stop the part with a fault. No command does: every rule of the manual gives a command its
effect or a condition in its response, and each meaning answers a next state from every state. -/
inductive Fault where
  /-- Raised by no command; the type has one value because an outcome type needs a reason type. Safe. -/
  | neverRaised
  deriving DecidableEq, Repr

/-- Why a command could be refused by the model. -/
inductive Refusal where
  /-- The command has no meaning yet. Raised by an arm of `exec` that is rejected by name; none is. Safe. -/
  | notModelled (mnemonic : String)
  deriving DecidableEq, Repr

end Sys2Proof.Machine
end

