-- ==== Sys2Proof/Machine/Flags.lean ====
section
/-! DEFINITION. The flags, tallies and counters of the part, and the codes of R169: how each is read, raised and moved.
A counter that saturates stays at its maximum (1.5). -/
namespace Sys2Proof.Machine

/-- One more, but never above `limit` (1.5). -/
def saturatingSucc (limit n : Nat) : Nat := if n < limit then n + 1 else n

/-! ## Entry flags (R18) -/

/-- A new entry has every flag 0 (R18). -/
def EntryFlags.clear : EntryFlags := ⟨false, false, false, false⟩

/-- The flags in one byte (R166). -/
def EntryFlags.code (f : EntryFlags) : Byte :=
  (if f.loanConflict then 1 else 0) ||| (if f.seenBeforeLoan then 2 else 0) ||| (if f.moved then 4 else 0) |||
    (if f.clamped then 8 else 0)

/-! ## Tallies (R33) -/

def Tallies.zero : Tallies := ⟨0, 0, 0, 0, 0, 0⟩

/-- The tally of one status. -/
def Tallies.get (t : Tallies) : Status → Nat
  | .expected => t.expected
  | .shelved => t.shelved
  | .displaced => t.displaced
  | .onLoan => t.onLoan
  | .returned => t.returned
  | .missing => t.missing

/-- The tallies with that of one status changed. -/
def Tallies.modify (t : Tallies) (f : Nat → Nat) : Status → Tallies
  | .expected => { t with expected := f t.expected }
  | .shelved => { t with shelved := f t.shelved }
  | .displaced => { t with displaced := f t.displaced }
  | .onLoan => { t with onLoan := f t.onLoan }
  | .returned => { t with returned := f t.returned }
  | .missing => { t with missing := f t.missing }

/-- A creation: the tally of the new status rises by one (R33). -/
def Tallies.rise (t : Tallies) (st : Status) : Tallies := t.modify (· + 1) st

/-- A status change: the old tally falls by one and the new one rises (R33). -/
def Tallies.move (t : Tallies) (old new : Status) : Tallies := (t.modify (· - 1) old).rise new

/-- The sum of the six tallies. -/
def Tallies.sum (t : Tallies) : Nat := t.expected + t.shelved + t.displaced + t.onLoan + t.returned + t.missing

/-- Two runs' tallies added (R15). -/
def Tallies.add (t u : Tallies) : Tallies :=
  ⟨t.expected + u.expected, t.shelved + u.shelved, t.displaced + u.displaced, t.onLoan + u.onLoan,
    t.returned + u.returned, t.missing + u.missing⟩

/-- The close makes every EXPECTED entry MISSING, each with its tally move (R158). -/
def Tallies.close (t : Tallies) : Tallies := { t with expected := 0, missing := t.missing + t.expected }

/-! ## Pass counters (R51) -/

def Counters.zero : Counters := ⟨0, 0, 0, 0, 0, 0, 0⟩

/-- The seven counters. -/
inductive Counter where
  | inOrder | ahead | behind | visitors | strays | gaps | moved
  deriving DecidableEq, Repr

/-- A counter rises by one, saturating at 65,535 (R51). -/
def Counters.rise (c : Counters) : Counter → Counters
  | .inOrder => { c with inOrder := saturatingSucc Config.counterMax c.inOrder }
  | .ahead => { c with ahead := saturatingSucc Config.counterMax c.ahead }
  | .behind => { c with behind := saturatingSucc Config.counterMax c.behind }
  | .visitors => { c with visitors := saturatingSucc Config.counterMax c.visitors }
  | .strays => { c with strays := saturatingSucc Config.counterMax c.strays }
  | .gaps => { c with gaps := saturatingSucc Config.counterMax c.gaps }
  | .moved => { c with moved := saturatingSucc Config.counterMax c.moved }

/-- The pass is CLEAN when the five deciding counters are 0 (R57). -/
def Counters.clean (c : Counters) : Bool :=
  c.ahead == 0 && c.behind == 0 && c.visitors == 0 && c.strays == 0 && c.gaps == 0

/-! ## Held flags (R148) -/

/-- A raise sets the flag and writes the parameter, in place of one already there (R148). -/
def HeldFlags.raise (h : HeldFlags) : HeldNotice → HeldFlags
  | .diverted context => { h with diverted := some context }
  | .released run reason => { h with released := some (run, reason) }
  | .mode m => { h with mode := some m }
  | .passDone run outcome => { h with passDone := some (run, outcome) }
  | .queueFull => { h with queueFull := true }
  | .strayFull => { h with strayFull := true }
  | .opDone op => { h with opDone := some op }

/-- The bit of a notice kind in a mask (R166). -/
def NoticeKind.bit : NoticeKind → Nat
  | .pull => 0
  | .gap => 1
  | .diverted => 2
  | .released => 3
  | .mode => 4
  | .passDone => 5
  | .queueFull => 6
  | .strayFull => 7
  | .opDone => 8

/-- Whether a mask masks a kind (R146). -/
def masks (mask : BitVec 9) (k : NoticeKind) : Bool := mask.getLsbD k.bit

/-- The pending held notice of one kind, if its flag is set. -/
def HeldFlags.get? (h : HeldFlags) : NoticeKind → Option HeldNotice
  | .pull => none
  | .gap => none
  | .diverted => h.diverted.map .diverted
  | .released => h.released.map fun x => .released x.1 x.2
  | .mode => h.mode.map .mode
  | .passDone => h.passDone.map fun x => .passDone x.1 x.2
  | .queueFull => if h.queueFull then some .queueFull else none
  | .strayFull => if h.strayFull then some .strayFull else none
  | .opDone => h.opDone.map .opDone

/-- The flag of one kind is cleared, as its frame begins (R148). -/
def HeldFlags.drop (h : HeldFlags) : NoticeKind → HeldFlags
  | .pull => h
  | .gap => h
  | .diverted => { h with diverted := none }
  | .released => { h with released := none }
  | .mode => { h with mode := none }
  | .passDone => { h with passDone := none }
  | .queueFull => { h with queueFull := false }
  | .strayFull => { h with strayFull := false }
  | .opDone => { h with opDone := none }

/-- The held kinds in the order in which the line chooses them (R149). -/
def heldOrder : List NoticeKind := [.diverted, .released, .mode, .passDone, .queueFull, .strayFull, .opDone]

/-- The set of held kinds pending, in the encoding of a mask (R146, R166). -/
def HeldFlags.pendingSet (h : HeldFlags) : BitVec 9 :=
  heldOrder.foldl (fun set k => if (h.get? k).isSome then set ||| (1#9 <<< k.bit) else set) 0

/-! ## Codes (R169) -/

def Mode.code : Mode → Byte
  | .halted => 0
  | .counting => 1
  | .paused => 2
  | .closing => 3
  | .closed => 4
  | .wiping => 5

def RunState.code : RunState → Byte
  | .unloaded => 0
  | .loading => 1
  | .ready => 2
  | .claimed => 3
  | .held => 4
  | .checked => 5
  | .rescan => 6
  | .review => 7
  | .closed => 8

/-- The nine run states in the order of their codes. -/
def RunState.all : List RunState :=
  [.unloaded, .loading, .ready, .claimed, .held, .checked, .rescan, .review, .closed]

def Status.code : Status → Byte
  | .expected => 0
  | .shelved => 1
  | .displaced => 2
  | .onLoan => 3
  | .returned => 4
  | .missing => 5

def Judgement.code : Judgement → Byte
  | .inOrder => 0
  | .ahead => 1
  | .behind => 2
  | .visitor => 3
  | .unjudged => 4

def PassOutcome.code : PassOutcome → Byte
  | .noPass => 0
  | .clean => 1
  | .unclean => 2
  | .abandoned => 3

def SightOutcome.code : SightOutcome → Byte
  | .backtrack => 0
  | .inRun => 1
  | .visitor => 2
  | .absorbed => 3
  | .moved => 4
  | .strayNew => 5
  | .strayAgain => 6
  | .strayLost => 7

/-- CLOSE is 0, WIPE 1 and none 2. -/
def operationCode : Option Operation → Byte
  | some .close => 0
  | some .wipe => 1
  | none => 2

def Reason.code : Reason → Byte
  | .runAbandon => 0
  | .expired => 1
  | .forced => 2
  | .portReset => 3

def directionCode : Direction → Byte
  | .forward => 0
  | .reverse => 1

def DiscrepancyKind.code : DiscrepancyKind → Byte
  | .ahead => 0
  | .behind => 1
  | .visitor => 2
  | .moved => 3
  | .gap => 4
  | .phantomLoan => 5
  | .loanConflict => 6
  | .returnConflict => 7
  | .passAbandoned => 8
  | .strayLost => 9

def NoticeKind.code (k : NoticeKind) : Byte := BitVec.ofNat 8 (0x80 + k.bit)

def Condition.code : Condition → Byte
  | .ok => 0x00
  | .frame => 0x01
  | .unknown => 0x02
  | .length => 0x03
  | .role => 0x04
  | .mode => 0x05
  | .busy => 0x06
  | .range => 0x07
  | .state => 0x08
  | .noClaim => 0x09
  | .holding => 0x0A
  | .notClaimant => 0x0B
  | .key => 0x0C
  | .limits => 0x0D
  | .order => 0x0E
  | .dupTag => 0x0F
  | .full => 0x10
  | .notListed => 0x11
  | .depth => 0x12
  | .empty => 0x13
  | .none => 0x14

end Sys2Proof.Machine
end

