-- ==== Sys2Proof/Machine/Collation.lean ====
section
/-! DEFINITION. The Collation Unit (chapter 1): the reading of a carried key, the three-way comparison, the
travel-order comparison, the between-limits test and the arithmetic of completion. `Ordering.lt`, `.eq` and `.gt`
stand for BEFORE, EQUAL and AFTER. -/
namespace Sys2Proof.Machine

/-! ## The carried form of a key (R2, R3) -/

/-- A to Z. -/
def isLetter (b : Byte) : Bool := decide (65 ≤ b.toNat) && decide (b.toNat ≤ 90)

/-- The six digit positions, from the left. -/
def digitList (d : Digits) : List Nat :=
  [d.d1.toNat, d.d2.toNat, d.d3.toNat, d.d4.toNat, d.d5.toNat, d.d6.toNat]

/-- The counted digits of a carried string, when each is a decimal digit (R3.5). -/
def readDigits (count : Nat) (d : Digits) : Option (List Nat) :=
  let counted := (digitList d).take count
  if counted.all (fun x => decide (x ≤ 9)) then some counted else none

/-- The class letters are the positions before the first zero (R2); at least one, each A to Z (R3.1, R3.2). -/
def readLetters (k : CarriedKey) : Option (List Byte) :=
  let letters := [k.letter1, k.letter2, k.letter3].takeWhile (fun b => b != 0)
  if letters != [] && letters.all isLetter then some letters else none

/-- A cutter: absent, present, or (`none`) malformed (R3.5 to R3.9). -/
def readCutter (c : CarriedCutter) : Option (Option Cutter) :=
  if c.letter = 0 then
    if c.count = 0 then some none else none
  else if !isLetter c.letter || c.count = 0 || decide (5 < c.count.toNat) then none
  else (readDigits c.count.toNat c.digits).map fun ds => some { letter := c.letter, digits := ds }

/-- A number for which 0 means absent. -/
def readOptional (x : U16) : Option Nat := if x = 0 then none else some x.toNat

/-- The key a frame carries; `none` when it is malformed (R2, R3). -/
def readKey (k : CarriedKey) : Option ShelfKey :=
  if 9999 < k.classInteger.toNat ∨ 6 < k.fractionCount.toNat ∨ 9999 < k.year.toNat ∨ 999 < k.volume.toNat then none
  else
    match readLetters k, readDigits k.fractionCount.toNat k.fraction, readCutter k.cutter1, readCutter k.cutter2 with
    | some letters, some fraction, some cutter1, some cutter2 =>
      if cutter1 = none ∧ cutter2 ≠ none then none
      else some { letters, classInteger := k.classInteger.toNat, fraction, cutter1, cutter2,
                  year := readOptional k.year, volume := readOptional k.volume }
    | _, _, _, _ => none

/-! ## The three-way comparison (R5 to R9) -/

/-- Numbers: the smaller is the lower. -/
def compareNumbers (a b : Nat) : Ordering := if a < b then .lt else if b < a then .gt else .eq

/-- Class letters, letter by letter from the left; a string that is the beginning of the other is the lower (R6). -/
def compareLetters : List Byte → List Byte → Ordering
  | [], [] => .eq
  | [], _ :: _ => .lt
  | _ :: _, [] => .gt
  | a :: as, b :: bs => (compareNumbers a.toNat b.toNat).then (compareLetters as bs)

/-- A digit string extended on the right with zeros to `width` digits and read as a whole number (R7, R8). -/
def digitValue (width : Nat) (digits : List Nat) : Nat :=
  (digits ++ List.replicate (width - digits.length) 0).foldl (fun n d => 10 * n + d) 0

/-- A field that may be absent: an absent one is the lower (R8, R9). -/
def compareOptional {α : Type} (compare : α → α → Ordering) : Option α → Option α → Ordering
  | none, none => .eq
  | none, some _ => .lt
  | some _, none => .gt
  | some a, some b => compare a b

/-- Cutters: the letter decides, then the digits extended to five (R8). -/
def compareCutters (a b : Cutter) : Ordering :=
  (compareNumbers a.letter.toNat b.letter.toNat).then (compareNumbers (digitValue 5 a.digits) (digitValue 5 b.digits))

/-- The comparison of A with B: the first field that differs decides (R5). -/
def compareKeys (a b : ShelfKey) : Ordering :=
  (compareLetters a.letters b.letters).then <|
  (compareNumbers a.classInteger b.classInteger).then <|
  (compareNumbers (digitValue 6 a.fraction) (digitValue 6 b.fraction)).then <|
  (compareOptional compareCutters a.cutter1 b.cutter1).then <|
  (compareOptional compareCutters a.cutter2 b.cutter2).then <|
  (compareOptional compareNumbers a.year b.year).then <|
  compareOptional compareNumbers a.volume b.volume

/-- The comparison in travel order (R10). -/
def travelCompare (direction : Direction) (a b : ShelfKey) : Ordering :=
  match direction with
  | .forward => compareKeys a b
  | .reverse => (compareKeys a b).swap

/-- A comes before B in travel order (R10). -/
def comesBefore (direction : Direction) (a b : ShelfKey) : Bool := travelCompare direction a b == .lt

/-- A comes no later in travel order than B (R10). -/
def comesNoLater (direction : Direction) (a b : ShelfKey) : Bool := travelCompare direction a b != .gt

/-- The result of the between-limits test (R11): `lt` BELOW, `eq` WITHIN, `gt` ABOVE. -/
def betweenLimits (key lower upper : ShelfKey) : Ordering :=
  if compareKeys key lower = .lt then .lt else if compareKeys key upper = .gt then .gt else .eq

/-! ## Completion (R14, R15) -/

/-- Completion per mille from an item count and the EXPECTED and MISSING numbers (R14). -/
def completion (items expected missing : Nat) : Nat :=
  if items = 0 then 1000 else (items - expected - missing) * 1000 / items

end Sys2Proof.Machine
end

