-- ==== Sys2Proof/Machine/Operands.lean ====
section
/-! DEFINITION. The operand forms of the requests and what their ranges take in: run numbers, bays, ports, directions,
initial statuses, working indices and notice sets; and the roles and modes that take each request (R164, R152). -/
namespace Sys2Proof

/-! ## Ports -/

def Port.role : Port → Role
  | .lp0 => .wand
  | .lp1 => .wand
  | .lp2 => .wand
  | .lp3 => .wand
  | .lp4 => .circulation
  | .lp5 => .supervisor

/-- The wand port that a port is, if its role is wand (R164). -/
def Port.wand? : Port → Option WandPort
  | .lp0 => some .lp0
  | .lp1 => some .lp1
  | .lp2 => some .lp2
  | .lp3 => some .lp3
  | .lp4 => none
  | .lp5 => none

def WandPort.port : WandPort → Port
  | .lp0 => .lp0
  | .lp1 => .lp1
  | .lp2 => .lp2
  | .lp3 => .lp3

/-- The number of a port (R169). -/
def Port.number : Port → Byte
  | .lp0 => 0
  | .lp1 => 1
  | .lp2 => 2
  | .lp3 => 3
  | .lp4 => 4
  | .lp5 => 5

end Sys2Proof

namespace Sys2Proof.Machine

/-! ## Ranges -/

/-- A run number, 0 to 279. -/
def runOperand (x : U16) : Option RunNo := if h : x.toNat < 280 then some ⟨x.toNat, h⟩ else none

/-- A bay, 0 to 39. -/
def bayOperand (x : Byte) : Option Bay := if h : x.toNat < 40 then some ⟨x.toNat, h⟩ else none

/-- A wand port number, 0 to 3 (R128, R129). -/
def wandOperand (x : Byte) : Option WandPort :=
  match x.toNat with
  | 0 => some .lp0
  | 1 => some .lp1
  | 2 => some .lp2
  | 3 => some .lp3
  | _ => none

/-- A direction, 0 or 1 (R169). -/
def directionOperand (x : Byte) : Option Direction :=
  match x.toNat with
  | 0 => some .forward
  | 1 => some .reverse
  | _ => none

/-- The initial status of a LOAD_ITEM: 0 (EXPECTED) or 3 (ON_LOAN) (R24, R169). -/
def initialStatusOperand (x : Byte) : Option Status :=
  match x.toNat with
  | 0 => some .expected
  | 3 => some .onLoan
  | _ => none

/-- The set of a SET_MASK: bits 9 to 15 name no kind (R146, R166). -/
def noticeSetOperand (x : U16) : Option (BitVec 9) := if x.toNat < 512 then some (x.setWidth 9) else none

/-- A value clamped to a range (1.5). -/
def clampTo (low high x : Nat) : Nat := max low (min high x)

/-! ## The working index (R70) -/

/-- A working index, 0 to 15. -/
def indexOperand (x : Byte) : Option WorkingIndex :=
  if h : x.toNat < 7 then some (.shelf ⟨.bayA, ⟨x.toNat, h⟩⟩)
  else if x.toNat = 7 then some (.wholeBay .bayA)
  else if h : x.toNat - 8 < 7 then some (.shelf ⟨.bayB, ⟨x.toNat - 8, h⟩⟩)
  else if x.toNat = 15 then some (.wholeBay .bayB)
  else none

/-- A working index that names one shelf: 0 to 15, and neither 7 nor 15 (R49). -/
def shelfOperand (x : Byte) : Option ShelfIndex :=
  match indexOperand x with
  | some (.shelf i) => some i
  | some (.wholeBay _) => none
  | none => none

/-- The number of a shelf index. -/
def ShelfIndex.number (i : ShelfIndex) : Nat :=
  match i.side with
  | .bayA => i.shelf.val
  | .bayB => 8 + i.shelf.val

/-- The number of a working index. -/
def WorkingIndex.number : WorkingIndex → Nat
  | .shelf i => i.number
  | .wholeBay .bayA => 7
  | .wholeBay .bayB => 15

/-- The run of one shelf of one bay (1.5). -/
def runAt (bay : Bay) (shelf : Fin 7) : RunNo := ⟨bay.val * 7 + shelf.val, by omega⟩

/-- The bay pointer of one side of a window. -/
def Context.bay (c : Context) : Side → Bay
  | .bayA => c.bayA
  | .bayB => c.bayB

/-- The run that a shelf index names in a context's window (R70). -/
def Context.resolve (c : Context) (i : ShelfIndex) : RunNo := runAt (c.bay i.side) i.shelf

/-- The shelves of a bay, from shelf 0 to shelf 6. -/
def allShelves : List (Fin 7) := [0, 1, 2, 3, 4, 5, 6]

/-- The shelf indices in window order (R70). -/
def windowOrder : List ShelfIndex :=
  allShelves.map (ShelfIndex.mk .bayA) ++ allShelves.map (ShelfIndex.mk .bayB)

/-- The indices that a CLAIM_NEXT examines: those after the cursor in window order, or all of them when the cursor is
absent (R74). -/
def searchOrder : Option ShelfIndex → List ShelfIndex
  | none => windowOrder
  | some cursor => windowOrder.filter fun i => decide (cursor.number < i.number)

end Sys2Proof.Machine

namespace Sys2Proof
open Machine

/-! ## Roles and modes -/

/-- The request sets of R164. -/
def RequestKind.inRole : RequestKind → Role → Bool
  | .queryItem, _ => true
  | .setMask, _ => true
  | .setWindow, r => r == .wand
  | .setDirection, r => r == .wand
  | .claim, r => r == .wand
  | .claimNext, r => r == .wand
  | .sight, r => r == .wand
  | .runEnd, r => r == .wand
  | .runAbandon, r => r == .wand
  | .resume, r => r == .wand
  | .queryRun, r => r == .wand
  | .loan, r => r == .circulation
  | .returnItem, r => r == .circulation
  | .configure, r => r == .supervisor
  | .start, r => r == .supervisor
  | .pause, r => r == .supervisor
  | .continueCount, r => r == .supervisor
  | .closeSection, r => r == .supervisor
  | .wipe, r => r == .supervisor
  | .deviceReset, r => r == .supervisor
  | .status, r => r == .supervisor
  | .totals, r => r == .supervisor
  | .loadRun, r => r == .supervisor
  | .loadItem, r => r == .supervisor
  | .loadDone, r => r == .supervisor
  | .unloadRun, r => r == .supervisor
  | .closeRun, r => r == .supervisor
  | .resetPasses, r => r == .supervisor
  | .forceRelease, r => r == .supervisor
  | .readRun, r => r == .supervisor
  | .readEntry, r => r == .supervisor
  | .readStray, r => r == .supervisor
  | .readDiscrepancy, r => r == .supervisor
  | .locate, r => r == .supervisor
  | .setDivert, r => r == .supervisor
  | .divert, r => r == .supervisor

/-- A mode test among HALTED, COUNTING, PAUSED and CLOSED: taken, or refused MODE; BUSY in CLOSING and WIPING
(R152, R160). -/
def modeAmong (halted counting paused closed : Bool) (m : Mode) : Option Condition :=
  match m with
  | .halted => if halted then none else some .mode
  | .counting => if counting then none else some .mode
  | .paused => if paused then none else some .mode
  | .closed => if closed then none else some .mode
  | .closing => some .busy
  | .wiping => some .busy

/-- The mode test of each request, as its own rule gives it and the table of R152 gathers them: the condition it is
refused with, or `none` when it is taken. -/
def RequestKind.modeTest : RequestKind → Mode → Option Condition
  | .start => modeAmong true false false false
  | .configure => modeAmong true false false false
  | .pause => modeAmong false true false false
  | .continueCount => modeAmong false false true false
  | .closeSection => modeAmong false true true false
  | .wipe => modeAmong true false false true
  | .loadRun => modeAmong true true true false
  | .loadItem => modeAmong true true true false
  | .loadDone => modeAmong true true true false
  | .unloadRun => modeAmong true true true false
  | .closeRun => modeAmong true true true false
  | .resetPasses => modeAmong true true true false
  | .claim => modeAmong false true false false
  | .claimNext => modeAmong false true false false
  | .sight => modeAmong false true false false
  | .runEnd => modeAmong false true true false
  | .runAbandon => modeAmong false true true false
  | .forceRelease => modeAmong false true true false
  | .loan => modeAmong false true true false
  | .returnItem => modeAmong false true true false
  | .divert => modeAmong false true true false
  | .resume => modeAmong false true true false
  | .setWindow => modeAmong true true true true
  | .setDirection => modeAmong true true true true
  | .setDivert => modeAmong true true true true
  | .setMask => modeAmong true true true true
  | .queryRun => modeAmong true true true true
  | .queryItem => modeAmong true true true true
  | .readRun => modeAmong true true true true
  | .readEntry => modeAmong true true true true
  | .readStray => modeAmong true true true true
  | .readDiscrepancy => modeAmong true true true true
  | .locate => modeAmong true true true true
  | .totals => modeAmong true true true true
  | .status => fun _ => none
  | .deviceReset => fun _ => none

end Sys2Proof
end

