-- ==== Sys2Proof/Machine/Ops.lean ====
section
/-! DEFINITION. The named operations over the state that the commands share: the tables of the Item Register and the
Run Table, the maps of wand ports and link ports, the raising of notices, the offer of a discrepancy record, status
changes with their tally moves, withdrawals, and the abandonment of a pass. -/
namespace Sys2Proof.Machine

/-! ## Tables: lists of keys with values, the keys strictly rising -/

section Table
variable {κ α : Type} [DecidableEq κ] [LT κ] [DecidableLT κ]

/-- The value a table lists under a key. -/
def tableGet (k : κ) : List (κ × α) → Option α
  | [] => none
  | (j, v) :: rest => if j = k then some v else tableGet k rest

/-- The table with a value listed under a key, in its place in the order. -/
def tablePut (k : κ) (v : α) : List (κ × α) → List (κ × α)
  | [] => [(k, v)]
  | (j, w) :: rest =>
    if k < j then (k, v) :: (j, w) :: rest
    else if k = j then (k, v) :: rest
    else (j, w) :: tablePut k v rest

/-- The table without a key. -/
def tableErase (k : κ) (t : List (κ × α)) : List (κ × α) := t.filter fun x => x.1 ≠ k

/-- The keys of a table rise strictly. -/
def tableSorted : List (κ × α) → Bool
  | [] => true
  | [_] => true
  | x :: y :: rest => decide (x.1 < y.1) && tableSorted (y :: rest)

end Table

/-- The smallest index, from `n` on, that a table of rising indices does not list. -/
def lowestFree {α : Type} (n : Nat) : List (Nat × α) → Nat
  | [] => n
  | (j, _) :: rest => if j = n then lowestFree (n + 1) rest else n

/-! ## Maps over the ports -/

def WandMap.get {α : Type} (m : WandMap α) : WandPort → α
  | .lp0 => m.lp0
  | .lp1 => m.lp1
  | .lp2 => m.lp2
  | .lp3 => m.lp3

def WandMap.set {α : Type} (m : WandMap α) (x : α) : WandPort → WandMap α
  | .lp0 => { m with lp0 := x }
  | .lp1 => { m with lp1 := x }
  | .lp2 => { m with lp2 := x }
  | .lp3 => { m with lp3 := x }

def WandMap.map {α β : Type} (f : α → β) (m : WandMap α) : WandMap β := ⟨f m.lp0, f m.lp1, f m.lp2, f m.lp3⟩

def PortMap.get {α : Type} (m : PortMap α) : Port → α
  | .lp0 => m.lp0
  | .lp1 => m.lp1
  | .lp2 => m.lp2
  | .lp3 => m.lp3
  | .lp4 => m.lp4
  | .lp5 => m.lp5

def PortMap.set {α : Type} (m : PortMap α) (x : α) : Port → PortMap α
  | .lp0 => { m with lp0 := x }
  | .lp1 => { m with lp1 := x }
  | .lp2 => { m with lp2 := x }
  | .lp3 => { m with lp3 := x }
  | .lp4 => { m with lp4 := x }
  | .lp5 => { m with lp5 := x }

def PortMap.map {α β : Type} (f : α → β) (m : PortMap α) : PortMap β :=
  ⟨f m.lp0, f m.lp1, f m.lp2, f m.lp3, f m.lp4, f m.lp5⟩

/-- One link port of the part. -/
def State.port (s : State) (p : Port) : LinkPort := s.ports.get p

/-- The part with one link port changed. -/
def State.updatePort (s : State) (p : Port) (f : LinkPort → LinkPort) : State :=
  { s with ports := s.ports.set (f (s.ports.get p)) p }

/-- The context store of a wand port. -/
def State.wand (s : State) (w : WandPort) : ContextStore := s.wands.get w

/-- The part with the context store of one wand port replaced. -/
def State.setWand (s : State) (w : WandPort) (c : ContextStore) : State := { s with wands := s.wands.set c w }

/-- The part with the current context of one wand port changed. -/
def State.updateContext (s : State) (w : WandPort) (f : Context → Context) : State :=
  s.setWand w { s.wand w with current := f (s.wand w).current }

/-! ## Notices (R145 to R148) -/

def Prompt.kind : Prompt → NoticeKind
  | .pull .. => .pull
  | .gap .. => .gap

/-- A prompt raised on a port: dropped when its kind is masked or the queue holds 4, else queued (R147). -/
def LinkPort.raisePrompt (q : LinkPort) (n : Prompt) : LinkPort :=
  if masks q.mask n.kind then q
  else if q.prompts.length < Config.promptCapacity then { q with prompts := q.prompts ++ [n] }
  else q

/-- A held notice raised on a port (R148). -/
def LinkPort.raiseHeld (q : LinkPort) (n : HeldNotice) : LinkPort := { q with held := q.held.raise n }

/-- A prompt raised on a wand port. -/
def State.prompt (s : State) (w : WandPort) (n : Prompt) : State := s.updatePort w.port (·.raisePrompt n)

/-- A held notice raised on one port. -/
def State.notify (s : State) (p : Port) (n : HeldNotice) : State := s.updatePort p (·.raiseHeld n)

/-- A change of mode, with MODE raised on all six ports (R152). -/
def State.enterMode (s : State) (m : Mode) : State :=
  { s with mode := m, ports := s.ports.map (·.raiseHeld (.mode m)) }

/-! ## The Discrepancy Queue (R141) -/

/-- A record offered to the queue joins it, raising QUEUE_FULL when it is the 256th, or is dropped and counted
(R141). -/
def State.offer (s : State) (r : Discrepancy) : State :=
  if s.discrepancies.length + 1 < Config.queueCapacity then { s with discrepancies := s.discrepancies ++ [r] }
  else if s.discrepancies.length + 1 = Config.queueCapacity then
    { s with discrepancies := s.discrepancies ++ [r] }.notify .lp5 .queueFull
  else { s with overflow := saturatingSucc Config.counterMax s.overflow }

/-! ## The Run Table (R42 to R52) -/

/-- The record of a run; `none` for an UNLOADED run. -/
def State.run (s : State) (r : RunNo) : Option LoadedRun := tableGet r s.runs

/-- The part with the record of a run written. -/
def State.setRun (s : State) (r : RunNo) (x : LoadedRun) : State := { s with runs := tablePut r x s.runs }

/-- The part with the record of a loaded run changed; an UNLOADED run stays so. -/
def State.updateRun (s : State) (r : RunNo) (f : LoadedRun → LoadedRun) : State :=
  match s.run r with
  | some x => s.setRun r (f x)
  | none => s

def Stage.state : Stage → RunState
  | .loading => .loading
  | .ready => .ready
  | .claimed _ => .claimed
  | .held _ => .held
  | .checked => .checked
  | .rescan => .rescan
  | .review => .review
  | .closed => .closed

/-- The claim of a CLAIMED or HELD run. -/
def Stage.claim? : Stage → Option Claim
  | .claimed c => some c
  | .held c => some c
  | .loading => none
  | .ready => none
  | .checked => none
  | .rescan => none
  | .review => none
  | .closed => none

/-- The stage with the claim of a CLAIMED or HELD run changed. -/
def Stage.mapClaim (f : Claim → Claim) : Stage → Stage
  | .claimed c => .claimed (f c)
  | .held c => .held (f c)
  | .loading => .loading
  | .ready => .ready
  | .checked => .checked
  | .rescan => .rescan
  | .review => .review
  | .closed => .closed

/-- The state of a run (R44). -/
def State.runState (s : State) (r : RunNo) : RunState :=
  match s.run r with
  | some x => x.stage.state
  | none => .unloaded

/-- The claim of a run, when it is CLAIMED or HELD. -/
def State.claim? (s : State) (r : RunNo) : Option Claim := (s.run r).bind fun x => x.stage.claim?

/-- The part with the claim of a CLAIMED or HELD run changed. -/
def State.updateClaim (s : State) (r : RunNo) (f : Claim → Claim) : State :=
  s.updateRun r fun x => { x with stage := x.stage.mapClaim f }

/-- The part with the pass record of a CLAIMED or HELD run changed. -/
def State.updatePass (s : State) (r : RunNo) (f : PassRecord → PassRecord) : State :=
  s.updateClaim r fun c => { c with pass := f c.pass }

/-- A counter of the pass on a run rises (R51). -/
def State.count (s : State) (r : RunNo) (k : Counter) : State :=
  s.updatePass r fun p => { p with counters := p.counters.rise k }

/-- The run that an unclean or abandoned pass leaves: RESCAN below the pass limit, else REVIEW (R57, R58). -/
def stageAfterPass (passCount passLimit : Nat) : Stage := if passCount < passLimit then .rescan else .review

/-- The port that the last pass names (R42). -/
def LastPass.port? : LastPass → Option WandPort
  | .noPass => none
  | .clean p _ => some p
  | .unclean p _ => some p
  | .abandoned _ p _ => some p

/-- The outcome of the last pass (R42). -/
def LastPass.outcome : LastPass → PassOutcome
  | .noPass => .noPass
  | .clean _ _ => .clean
  | .unclean _ _ => .unclean
  | .abandoned _ _ _ => .abandoned

/-- A run claimed or held. -/
def Stage.inFlight (g : Stage) : Bool := g.claim?.isSome

/-! ## The Item Register (R17 to R41) -/

/-- The entry at an index of the pool. -/
def State.entry (s : State) (i : Nat) : Option Entry := tableGet i s.pool

/-- The lookup by tag: the index and entry of the tag, if the tag index holds it (R22, R23). -/
def State.lookup (s : State) (tag : Tag) : Option (Nat × Entry) := s.pool.find? fun x => x.2.tag == tag

/-- The tag index: the tag of every entry in use, with its index (R22). -/
def State.tagIndex (s : State) : List (Tag × Nat) := s.pool.map fun x => (x.2.tag, x.1)

/-- The part with an entry changed; an index not in use changes nothing. -/
def State.updateEntry (s : State) (i : Nat) (f : Entry → Entry) : State :=
  match s.entry i with
  | some e => { s with pool := tablePut i (f e) s.pool }
  | none => s

/-- A status change of an entry, with the tally move of its home run; an entry that holds the status already keeps it
and no tally moves (R33, R34). -/
def State.setStatus (s : State) (i : Nat) (new : Status) : State :=
  match s.entry i with
  | some e =>
    if e.status = new then s
    else
      (s.updateEntry i fun e => { e with status := new }).updateRun e.homeRun fun x =>
        { x with shelf := { x.shelf with tallies := x.shelf.tallies.move e.status new } }
  | none => s

/-- The item count of a run: the length of its entry list (R21). -/
def State.itemCount (s : State) (r : RunNo) : Nat :=
  match s.run r with
  | some x => x.shelf.entries.length
  | none => 0

/-- The tallies of a run; an UNLOADED run's are 0 (R33). -/
def State.tallies (s : State) (r : RunNo) : Tallies :=
  match s.run r with
  | some x => x.shelf.tallies
  | none => .zero

/-- The completion of one run (R14). -/
def Shelf.completion (x : Shelf) : Nat := Machine.completion x.entries.length x.tallies.expected x.tallies.missing

/-! ## The Stray List (R104) -/

/-- The stray record of a tag. -/
def State.strayOf (s : State) (tag : Tag) : Option Stray := s.strays.find? fun y => y.tag == tag

/-! ## Withdrawal (R52) -/

/-- The run in whose pending slot an entry stands: by the rules of the Run Table always its home run (R37, R51). -/
def State.pendingRun (s : State) (i : Nat) : Option RunNo :=
  match s.entry i with
  | some e =>
    match s.claim? e.homeRun with
    | some c => if c.pass.pendingEntry = some i then some e.homeRun else none
    | none => none
  | none => none

/-- The entry is removed from the pending slot in which it stands, if any (R52). -/
def State.withdraw (s : State) (i : Nat) : State :=
  match s.pendingRun i with
  | some r => s.updatePass r fun p => { p with pendingEntry := none }
  | none => s

/-! ## Claims and their contexts (R50, R58) -/

/-- A context with its claim on a run made absent, if it names that run. -/
def Context.release (r : RunNo) (c : Context) : Context :=
  if c.claimedRun = some r then { c with claimedRun := none } else c

/-- The context of a store that names a run loses its claim, be it the current one or a stacked one (R58, R136). -/
def ContextStore.release (r : RunNo) (c : ContextStore) : ContextStore :=
  { c with current := c.current.release r, stack := c.stack.map (Context.release r) }

/-- A pass is abandoned without judgement (R58). A run with no pass is left as it is. -/
def State.abandon (s : State) (r : RunNo) (reason : Reason) : State :=
  match s.run r with
  | some x =>
    match x.stage.claim? with
    | some c =>
      let s := s.setRun r { x with stage := stageAfterPass x.passCount s.config.passLimit,
                                   lastPass := .abandoned reason c.claimant c.pass.serial }
      let s := s.setWand c.claimant ((s.wand c.claimant).release r)
      let s := s.offer { kind := .passAbandoned, time := s.clock, run := some r, port := some c.claimant.port,
                         reason := some reason }
      s.notify .lp5 (.passDone r .abandoned)
    | none => s
  | none => s

/-- A pass is abandoned, and RELEASED with the reason is raised on its claimant's port (R55, R60). -/
def State.releaseClaim (s : State) (r : RunNo) (reason : Reason) : State :=
  match s.claim? r with
  | some c => (s.abandon r reason).notify c.claimant.port (.released r reason)
  | none => s

/-! ## Expiry (R55) -/

/-- The runs whose running claim timers have reached 0, in ascending order: CLAIMED runs with the mode COUNTING
(R53, R55). -/
def State.expiriesDue (s : State) : List RunNo :=
  if s.mode = .counting then
    (s.runs.filter fun x =>
      match x.2.stage with
      | .claimed c => c.timer == 0
      | _ => false).map Prod.fst
  else []

end Sys2Proof.Machine
end

