-- ==== Sys2Proof/Machine/Link.lean ====
section
/-! DEFINITION. The link ports (chapter 11): the frame and its check, the receive side, the receive buffer, the
transmit line, and the handling that every request and every event shares. -/
namespace Sys2Proof.Machine

/-! ## The frame and its check (R165) -/

/-- One step of the CRC with the generator x^16 + x^12 + x^5 + 1. -/
def crcBit (c : U16) : U16 := if c.msb then (c <<< 1) ^^^ 0x1021#16 else c <<< 1

/-- One byte taken into the CRC, most significant bit first. -/
def crcByte (c : U16) (b : Byte) : U16 :=
  crcBit <| crcBit <| crcBit <| crcBit <| crcBit <| crcBit <| crcBit <| crcBit <| c ^^^ (b.setWidth 16 <<< 8)

/-- The check over a string of bytes, from 0xFFFF (R165). -/
def crc (bytes : List Byte) : U16 := bytes.foldl crcByte 0xFFFF#16

/-- The bytes the check is computed over: the length, the kind and the payload. -/
def Frame.checked (f : Frame) : List Byte := BitVec.ofNat 8 (f.payload.length + 1) :: f.kind :: f.payload

/-- The bytes of a frame on the line. -/
def Frame.bytes (f : Frame) : List Byte := 0xA5#8 :: (f.checked ++ u16Bytes f.check)

/-- The frame of a kind and a payload, with its check. -/
def Frame.make (kind : Byte) (payload : List Byte) : Frame where
  kind := kind
  payload := payload
  check := crc (BitVec.ofNat 8 (payload.length + 1) :: kind :: payload)

/-- The last two bytes of a list as the check. -/
def lastTwo : List Byte → U16
  | [hi, lo] => u16Of hi lo
  | _ :: rest => lastTwo rest
  | [] => 0

/-- The frame that collected bytes make: start byte, length, kind, payload, check. -/
def frameOf : List Byte → Frame
  | _ :: _ :: kind :: rest => { kind := kind, payload := rest.take (rest.length - 2), check := lastTwo rest }
  | _ => { kind := 0, payload := [], check := 0 }

/-- The three frame checks of R168: the response that a frame failing one of them is answered with. -/
def Frame.reject? (f : Frame) : Option Response :=
  if crc f.checked ≠ f.check then some { kind := 0, condition := .frame, data := .empty }
  else
    match RequestKind.ofByte? f.kind with
    | none => some { kind := f.kind, condition := .unknown, data := .empty }
    | some k =>
      if k.lengthOk f.payload.length then none else some { kind := f.kind, condition := .length, data := .empty }

/-! ## The receive buffer (R168) -/

def SlotPhase.response? : SlotPhase → Option Response
  | .unhandled => none
  | .waiting r => some r
  | .sending r => some r

def SlotPhase.isWaiting : SlotPhase → Bool
  | .unhandled => false
  | .waiting _ => true
  | .sending _ => false

def SlotPhase.isSending : SlotPhase → Bool
  | .unhandled => false
  | .waiting _ => false
  | .sending _ => true

/-- The receive buffer: the frames held from their offer until their responses have been sent (R168). -/
def LinkPort.buffer (q : LinkPort) : List Slot := q.inbox.filter (·.buffered)

/-- The BUSY responses of turned-away frames that wait for the line (R168). -/
def LinkPort.busyWaiting (q : LinkPort) : List Slot := q.inbox.filter fun x => !x.buffered && x.phase.isWaiting

/-- A complete frame is offered to the receive buffer: it joins, is answered BUSY, or is discarded (R168). -/
def LinkPort.offerFrame (q : LinkPort) (f : Frame) : LinkPort :=
  if q.buffer.length < Config.bufferCapacity then
    { q with inbox := q.inbox ++ [{ frame := f, buffered := true, phase := .unhandled }] }
  else if q.busyWaiting.length < Config.bufferCapacity then
    { q with inbox := q.inbox ++ [{ frame := f, buffered := false,
                                    phase := .waiting { kind := f.kind, condition := .busy, data := .empty } }] }
  else q

/-- The earliest slot not yet handled. -/
def firstUnhandled : List Slot → Option Slot
  | [] => none
  | x :: rest => if x.phase = .unhandled then some x else firstUnhandled rest

/-- The frame that the port handles next, the frames of the buffer being handled in the order in which they joined
(R168). -/
def LinkPort.next? (q : LinkPort) : Option Frame := (firstUnhandled q.inbox).map (·.frame)

/-- The earliest unhandled slot gets its response. -/
def respondFirst (r : Response) : List Slot → List Slot
  | [] => []
  | x :: rest => if x.phase = .unhandled then { x with phase := .waiting r } :: rest else x :: respondFirst r rest

/-- The response to the frame being handled becomes waiting (R149). -/
def LinkPort.respond (q : LinkPort) (r : Response) : LinkPort := { q with inbox := respondFirst r q.inbox }

/-- The response given last on a port and not yet sent to its end. -/
def LinkPort.lastResponse (q : LinkPort) : Option Response := q.inbox.getLast?.bind fun x => x.phase.response?

/-! ## The receive side (R167) -/

/-- The receive side takes one byte (R167). -/
def LinkPort.receiveByte (q : LinkPort) (b : Byte) : LinkPort :=
  match q.receiver with
  | .hunting => if b = 0xA5#8 then { q with receiver := .collecting [b] } else q
  | .collecting [] => if b = 0xA5#8 then { q with receiver := .collecting [b] } else { q with receiver := .hunting }
  | .collecting [start] =>
    if b.toNat = 0 ∨ Config.frameLengthMax < b.toNat then
      if b = 0xA5#8 then { q with receiver := .collecting [b] } else { q with receiver := .hunting }
    else { q with receiver := .collecting [start, b] }
  | .collecting (start :: n :: rest) =>
    let bytes := start :: n :: (rest ++ [b])
    if bytes.length = n.toNat + 4 then { q with receiver := .hunting }.offerFrame (frameOf bytes)
    else { q with receiver := .collecting bytes }

/-- Whether bytes reach the receive side of a port: the part receives (R172) and the line is not in a break (R170). -/
def State.canReceive (s : State) (p : Port) : Bool := s.receiving && !s.pins.resetLow && !s.pins.breakLow.get p

/-- Bytes arrive on a port's receive line, in order. -/
def State.receive (s : State) (p : Port) (bytes : List Byte) : State :=
  if s.canReceive p then s.updatePort p fun q => bytes.foldl LinkPort.receiveByte q else s

/-- What is still to come of a frame whose first bytes the receive side has collected. -/
def LinkPort.remaining (q : LinkPort) (bytes : List Byte) : List Byte :=
  match q.receiver with
  | .hunting => bytes
  | .collecting got => if got.isPrefixOf bytes then bytes.drop got.length else bytes

/-- The bytes of a whole frame arrive, those not yet collected. -/
def State.receiveFrame (s : State) (p : Port) (bytes : List Byte) : State :=
  s.receive p ((s.port p).remaining bytes)

/-! ## The transmit line (R149) -/

/-- The earliest waiting response goes on the line. -/
def sendFirst : List Slot → Option (List Slot)
  | [] => none
  | x :: rest =>
    match x.phase with
    | .waiting r => some ({ x with phase := .sending r } :: rest)
    | _ => (sendFirst rest).map (x :: ·)

/-- The first held kind, in the order of R149, whose flag is set and which is open. -/
def LinkPort.nextHeld (q : LinkPort) : Option NoticeKind :=
  heldOrder.find? fun k => (q.held.get? k).isSome && !masks q.mask k

/-- An idle line begins its next frame: a response, the earliest first; else the prompt at the head of the queue; else
a held notice that is pending and open (R149). -/
def LinkPort.choose (q : LinkPort) : LinkPort :=
  match q.line with
  | .idle =>
    match sendFirst q.inbox with
    | some inbox => { q with inbox, line := .response }
    | none =>
      match q.prompts with
      | n :: rest => { q with prompts := rest, line := .prompt n }
      | [] =>
        match q.nextHeld with
        | some k =>
          match q.held.get? k with
          | some n => { q with held := q.held.drop k, line := .held n }
          | none => q
        | none => q
  | _ => q

/-- Every idle line chooses its next frame (R149). -/
def State.kick (s : State) : State := { s with ports := s.ports.map LinkPort.choose }

/-- The response on the line of a port. -/
def LinkPort.sendingResponse (q : LinkPort) : Option Response :=
  match q.line with
  | .response => (q.inbox.find? fun x => x.phase.isSending).bind fun x => x.phase.response?
  | _ => none

/-- The earliest slot whose response is on the line is done with. -/
def removeSending : List Slot → List Slot
  | [] => []
  | x :: rest => if x.phase.isSending then rest else x :: removeSending rest

/-- The frame on the line has been sent to its last byte: the line is idle, and a frame whose response this was leaves
the buffer (R149, R168). -/
def LinkPort.endFrame (q : LinkPort) : LinkPort :=
  match q.line with
  | .response => { q with line := .idle, inbox := removeSending q.inbox }
  | _ => { q with line := .idle }

/-! ## Resets (R161, R172) -/

/-- The power-on values, the commands that wait and the pins apart (R161, R172). -/
def State.powerOnValues (s : State) (receiving : Bool) : State :=
  { State.reset with pending := s.pending, pins := s.pins, receiving := receiving }

/-- The response to a DEVICE_RESET that was taken. -/
def isResetResponse (r : Response) : Bool := r.kind == RequestKind.code .deviceReset && r.condition == .ok

/-- The response to the DEVICE_RESET awaiting its effect is on the line of LP5 (R161). -/
def State.sendsResetResponse (s : State) : Bool :=
  s.resetScheduled && (s.port .lp5).sendingResponse.any isResetResponse

/-! ## The handling of commands -/

/-- The claims whose timers have reached 0 expire, in ascending order of run number, and the notices they raise become
waiting together (R55, R149). -/
def State.settle (s : State) : State :=
  match s.expiriesDue with
  | [] => s
  | due => (due.foldl (fun s r => s.releaseClaim r .expired) s).kick

/-- What the handling of a request comes to: the condition and data of its response, and the state. -/
structure Served where
  condition : Condition
  data : Data
  state : State

/-- A request taken. -/
def taken (d : Data) (s : State) : Served := { condition := .ok, data := d, state := s }

/-- A request refused, or answered with a condition: it changes nothing. -/
def refuse (c : Condition) (s : State) : Served := { condition := c, data := .empty, state := s }

/-- LP5 handles no frame after a DEVICE_RESET (R161). -/
def State.blocked (s : State) (p : Port) : Bool := p == .lp5 && s.resetScheduled

/-- The next frame of a port is handled as a request: the frame checks, the role test, the mode test, then the
request's own rule (11.4.1); the response and the notices raised become waiting together (R149). -/
def State.handle (s : State) (p : Port) (k : RequestKind) (f : Frame) (serve : State → Served) : State :=
  match f.reject? with
  | some r => s.updatePort p (·.respond r)
  | none =>
    let served :=
      if k.inRole p.role then
        match k.modeTest s.mode with
        | some c => refuse c s
        | none => serve s
      else refuse .role s
    served.state.updatePort p (·.respond { kind := k.code, condition := served.condition, data := served.data })

/-- A request reaches its port and, in its turn, is handled. A frame of it that stands first among the unhandled
frames of the buffer is handled; otherwise its frame arrives now, and is handled if it then stands first (R167, R168).
While RST_N is low the part is held at its power-on values (R172). -/
def request (c : Instr) (serve : State → Served) (s : State) : State :=
  match c.request with
  | none => s
  | some (p, k, payload) =>
    if s.pins.resetLow then s
    else
      let f := Frame.make k.code payload
      let s := s.settle
      let s := if (s.port p).next? = some f then s else s.receiveFrame p f.bytes
      let s := if (s.port p).next? = some f ∧ s.blocked p = false then s.handle p k f serve else s
      s.kick

/-- The serving of a wand request, for the wand port it arrives on. -/
def asWand (p : Port) (serve : WandPort → State → Served) (s : State) : Served :=
  match p.wand? with
  | some w => serve w s
  | none => refuse .role s

/-- An event takes place: the expiries that are due come first, and idle lines then choose their frames. While RST_N is
low the part is held at its power-on values (R172). -/
def event (f : State → State) (s : State) : State := if s.pins.resetLow then s else (f s.settle).kick

end Sys2Proof.Machine
end

