-- ==== Sys2Proof/Machine/Circulation.lean ====
section
/-! DEFINITION. LOAN and RETURN (chapter 7). -/
namespace Sys2Proof.Machine

/-- The discrepancy record of a circulation conflict (R119, R120). -/
def circulationRecord (s : State) (k : DiscrepancyKind) (i : Nat) (e : Entry) : Discrepancy :=
  { kind := k, time := s.clock, run := some e.homeRun, port := some .lp4, entry := some i, tag := some e.tag }

/-- The LOAN_CONFLICT flag of an entry is set. -/
def State.flagLoanConflict (s : State) (i : Nat) : State :=
  s.updateEntry i fun e => { e with flags := { e.flags with loanConflict := true } }

/-- The SEEN_BEFORE_LOAN flag of an entry is set. -/
def State.flagSeenBeforeLoan (s : State) (i : Nat) : State :=
  s.updateEntry i fun e => { e with flags := { e.flags with seenBeforeLoan := true } }

/-- The report of R125, from the entry after the request. -/
def State.circulationReport (s : State) (i : Nat) (e : Entry) (record : Option DiscrepancyKind) : CirculationReport :=
  let after := (s.entry i).getD e
  { index := i, homeRun := e.homeRun, found := e.status, after := after.status, flags := after.flags, record := record }

/-- The discrepancy record that a LOAN makes, by the status it finds (R117). -/
def loanRecord : Status → Option DiscrepancyKind
  | .onLoan => some .loanConflict
  | .expected => none
  | .shelved => none
  | .displaced => none
  | .returned => none
  | .missing => none

/-- Whether a LOAN that finds a status sets SEEN_BEFORE_LOAN for it (R117). -/
def seenStatus : Status → Bool
  | .shelved => true
  | .displaced => true
  | .expected => false
  | .onLoan => false
  | .returned => false
  | .missing => false

/-- LOAN (R116 to R119, R125). -/
def serveLoan (tag : Tag) (s : State) : Served :=
  match s.lookup tag with
  | none => refuse .notListed s
  | some (i, e) =>
    let withdrawn := s.pendingRun i
    let s := s.withdraw i
    let s := if withdrawn.isSome || seenStatus e.status then s.flagSeenBeforeLoan i else s
    let s := if e.status = .onLoan then
        (s.flagLoanConflict i).offer (circulationRecord s .loanConflict i e)
      else s.setStatus i .onLoan
    taken (.lent (s.circulationReport i e (loanRecord e.status)) withdrawn) s

def execLoan (p : Port) (tag : Tag) (s : State) : Host.Outcome State Fault Refusal :=
  .next (request (.loan p tag) (serveLoan tag) s)

/-- The discrepancy record that a RETURN makes, by the status it finds (R120). -/
def returnRecord : Status → Option DiscrepancyKind
  | .onLoan => none
  | .expected => some .returnConflict
  | .shelved => some .returnConflict
  | .displaced => some .returnConflict
  | .returned => some .returnConflict
  | .missing => some .returnConflict

/-- RETURN (R116, R120, R121, R125). -/
def serveReturn (tag : Tag) (s : State) : Served :=
  match s.lookup tag with
  | none => refuse .notListed s
  | some (i, e) =>
    let s := if e.status = .expected then s.flagLoanConflict i else s
    let s := if e.status = .onLoan ∨ e.status = .expected then s.setStatus i .returned else s
    let s := if e.status = .onLoan then s else s.offer (circulationRecord s .returnConflict i e)
    taken (.returned (s.circulationReport i e (returnRecord e.status))) s

def execReturn (p : Port) (tag : Tag) (s : State) : Host.Outcome State Fault Refusal :=
  .next (request (.returnItem p tag) (serveReturn tag) s)

end Sys2Proof.Machine
end

