-- ==== Sys2Proof/Machine/Contexts.lean ====
section
/-! DEFINITION. Working windows, diversion and resumption (chapters 4 and 8), and the notice mask (R146). -/
namespace Sys2Proof.Machine

/-- SET_WINDOW (R71). -/
def serveSetWindow (bayA bayB : Byte) (w : WandPort) (s : State) : Served :=
  match bayOperand bayA, bayOperand bayB with
  | some a, some b =>
    taken (.window a b (s.wand w).current.direction)
      (s.updateContext w fun c => { c with bayA := a, bayB := b, cursor := none })
  | _, _ => refuse .range s

def execSetWindow (p : Port) (bayA bayB : Byte) (s : State) : Host.Outcome State Fault Refusal :=
  .next (request (.setWindow p bayA bayB) (asWand p (serveSetWindow bayA bayB)) s)

/-- SET_DIRECTION (R72). -/
def serveSetDirection (direction : Byte) (w : WandPort) (s : State) : Served :=
  match directionOperand direction with
  | none => refuse .range s
  | some d =>
    if (s.wand w).current.claimedRun ≠ none then refuse .holding s
    else taken (.direction d) (s.updateContext w fun c => { c with direction := d })

def execSetDirection (p : Port) (direction : Byte) (s : State) : Host.Outcome State Fault Refusal :=
  .next (request (.setDirection p direction) (asWand p (serveSetDirection direction)) s)

/-- SET_DIVERT (R128). -/
def serveSetDivert (wand bayA bayB direction : Byte) (s : State) : Served :=
  match wandOperand wand, bayOperand bayA, bayOperand bayB, directionOperand direction with
  | some w, some a, some b, some d =>
    let context : Prepared := { bayA := a, bayB := b, direction := d }
    taken (.slotFilled w context (s.wand w).slot.isSome) (s.setWand w { s.wand w with slot := some context })
  | _, _, _, _ => refuse .range s

def execSetDivert (p : Port) (wand bayA bayB direction : Byte) (s : State) : Host.Outcome State Fault Refusal :=
  .next (request (.setDivert p wand bayA bayB direction) (serveSetDivert wand bayA bayB direction) s)

/-- A CLAIMED run goes to HELD with its claim kept whole (R130). -/
def holdStage : Stage → Stage
  | .claimed c => .held c
  | .held c => .held c
  | .loading => .loading
  | .ready => .ready
  | .checked => .checked
  | .rescan => .rescan
  | .review => .review
  | .closed => .closed

/-- A HELD run returns to CLAIMED with its timer at the full interval (R133). -/
def resumeStage (interval : Nat) : Stage → Stage
  | .held c => .claimed { c with timer := interval }
  | .claimed c => .claimed c
  | .loading => .loading
  | .ready => .ready
  | .checked => .checked
  | .rescan => .rescan
  | .review => .review
  | .closed => .closed

/-- The current context that a prepared context becomes: no cursor and no claim (R127, R130). -/
def Prepared.context (p : Prepared) : Context :=
  { bayA := p.bayA, bayB := p.bayB, direction := p.direction, cursor := none, claimedRun := none }

/-- A claim named by a context is held, if there is one (R130). -/
def State.holdRun (s : State) : Option RunNo → State
  | none => s
  | some r => s.updateRun r fun x => { x with stage := holdStage x.stage }

/-- DIVERT (R129, R130). -/
def serveDivert (wand : Byte) (s : State) : Served :=
  match wandOperand wand with
  | none => refuse .range s
  | some w =>
    let store := s.wand w
    match store.slot with
    | none => refuse .empty s
    | some context =>
      if Config.stackCapacity ≤ store.stack.length then refuse .depth s
      else
        let s := s.setWand w { current := context.context, stack := store.current :: store.stack, slot := none }
        let s := s.holdRun store.current.claimedRun
        taken (.diverted w (store.stack.length + 1) store.current.claimedRun context)
          (s.notify w.port (.diverted context))

def execDivert (p : Port) (wand : Byte) (s : State) : Host.Outcome State Fault Refusal :=
  .next (request (.divert p wand) (serveDivert wand) s)

/-- The run named by a restored context returns to CLAIMED, if there is one (R133). -/
def State.resumeRun (s : State) : Option RunNo → State
  | none => s
  | some r => s.updateRun r fun x => { x with stage := resumeStage s.config.claimInterval x.stage }

/-- The claim part of a RESUME response (R133). -/
def State.resumedClaim (s : State) (r : RunNo) : Option ResumedClaim :=
  (s.run r).bind fun x =>
    x.stage.claim?.map fun c =>
      { run := r, serial := c.pass.serial, passCount := x.passCount, lastPosition := c.pass.lastPosition }

/-- RESUME (R132, R133). -/
def serveResume (w : WandPort) (s : State) : Served :=
  let store := s.wand w
  if store.current.claimedRun ≠ none then refuse .holding s
  else
    match store.stack with
    | [] => refuse .empty s
    | top :: rest =>
      let s := (s.setWand w { store with current := top, stack := rest }).resumeRun top.claimedRun
      taken (.resumed top.bayA top.bayB top.direction top.cursor (top.claimedRun.bind s.resumedClaim) rest.length) s

def execResume (p : Port) (s : State) : Host.Outcome State Fault Refusal :=
  .next (request (.resume p) (asWand p serveResume) s)

/-- SET_MASK (R146). -/
def serveSetMask (p : Port) (kinds : U16) (s : State) : Served :=
  match noticeSetOperand kinds with
  | none => refuse .range s
  | some mask =>
    taken (.masks mask (s.port p).held.pendingSet) (s.updatePort p fun q => { q with mask := mask })

def execSetMask (p : Port) (kinds : U16) (s : State) : Host.Outcome State Fault Refusal :=
  .next (request (.setMask p kinds) (serveSetMask p kinds) s)

end Sys2Proof.Machine
end

