-- ==== Sys2Proof/Machine/Events.lean ====
section
/-! DEFINITION. The events of the lines and the pins (chapter 11): bytes and frames received, the transmit line, breaks,
power-on and the external reset. -/
namespace Sys2Proof.Machine

/-! ## Receiving (R167, R168) -/

def execFrameReceived (p : Port) (bytes : List Byte) (s : State) : Host.Outcome State Fault Refusal :=
  .next (event (fun s => s.receiveFrame p bytes) s)

def execStartByte (p : Port) (s : State) : Host.Outcome State Fault Refusal :=
  .next (event (fun s => s.receive p [0xA5#8]) s)

def execFrameLengthInvalid (p : Port) (length : Byte) (s : State) : Host.Outcome State Fault Refusal :=
  .next (event (fun s => s.receive p [length]) s)

/-- The collected bytes of an incomplete frame are discarded and hunting resumes (R167). -/
def LinkPort.timeOut (q : LinkPort) : LinkPort := { q with receiver := .hunting }

def execFrameTimeout (p : Port) (s : State) : Host.Outcome State Fault Refusal :=
  .next (event (fun s => s.updatePort p LinkPort.timeOut) s)

/-- A frame that fails a frame check is answered FRAME, UNKNOWN or LENGTH (R168). A frame that passes them is a request
and waits for its own handling. -/
def State.rejectFrame (s : State) (p : Port) : State :=
  if s.blocked p then s
  else
    match (s.port p).next?.bind Frame.reject? with
    | some r => s.updatePort p (·.respond r)
    | none => s

def execFrameRejected (p : Port) (s : State) : Host.Outcome State Fault Refusal :=
  .next (event (fun s => s.rejectFrame p) s)

/-! ## Transmitting (R149, R161) -/

/-- A transmit line sends the last byte of its frame; where this was the response to a DEVICE_RESET, the reset takes
effect (R149, R161). -/
def State.transmitEnd (s : State) (p : Port) : State :=
  if p = .lp5 ∧ s.sendsResetResponse = true then s.powerOnValues s.receiving else s.updatePort p LinkPort.endFrame

def execTransmitFrameEnd (p : Port) (s : State) : Host.Outcome State Fault Refusal :=
  .next (event (fun s => s.transmitEnd p) s)

/-! ## Port reset by break (R170, R137, R150) -/

/-- The receive line of a port goes low or returns high. -/
def State.setBreak (s : State) (p : Port) (low : Bool) : State :=
  { s with pins := { s.pins with breakLow := s.pins.breakLow.set low p } }

/-- The claims of a context store, the current context's first, then those of the stack from the top (R137). -/
def ContextStore.claims (c : ContextStore) : List RunNo := (c.current :: c.stack).filterMap (·.claimedRun)

/-- A port reset of a wand port abandons its passes and clears its context store (R137, R68). -/
def State.resetWand (s : State) (w : WandPort) : State :=
  (((s.wand w).claims).foldl (fun s r => s.abandon r .portReset) s).setWand w .default

/-- A port reset (R170, R150). -/
def State.resetPort (s : State) (p : Port) : State :=
  let s := s.updatePort p fun _ => .default
  let s := match p.wand? with
    | some w => s.resetWand w
    | none => s
  if p = .lp5 ∧ s.resetScheduled = true then s.powerOnValues s.receiving else s

/-- A break on a port's receive line: one port reset for one low, however long (R170). -/
def State.takeBreak (s : State) (p : Port) : State :=
  if s.pins.breakLow.get p then s else (s.setBreak p true).resetPort p

def execPortReset (p : Port) (s : State) : Host.Outcome State Fault Refusal :=
  .next (if s.pins.resetLow then s.setBreak p true else event (fun s => s.takeBreak p) s)

def execBreakEnd (p : Port) (s : State) : Host.Outcome State Fault Refusal :=
  .next (if s.pins.resetLow then s.setBreak p false else event (fun s => s.setBreak p false) s)

/-! ## Power-on and the external reset (R172) -/

/-- The part starts with its power-on values, and receives bytes 2 ms later (R172). -/
def execPowerOn (s : State) : Host.Outcome State Fault Refusal := .next (s.powerOnValues false)

/-- RST_N low resets the part and holds it (R172). -/
def execExternalReset (s : State) : Host.Outcome State Fault Refusal :=
  .next { s.powerOnValues false with pins := { s.pins with resetLow := true } }

/-- RST_N returns high and the part starts; while RST_N is high there is nothing to release (R172). -/
def execResetRelease (s : State) : Host.Outcome State Fault Refusal :=
  .next (if s.pins.resetLow then { s.powerOnValues false with pins := { s.pins with resetLow := false } } else s)

/-- 2 ms after the start the part begins to receive bytes, and each receive side hunts from the next byte (R172). A part
that receives already goes on receiving. -/
def State.enableReceive (s : State) : State :=
  if s.receiving then s
  else { s with receiving := true, ports := s.ports.map fun q => { q with receiver := .hunting } }

def execReceiveEnable (s : State) : Host.Outcome State Fault Refusal := .next (event State.enableReceive s)

end Sys2Proof.Machine
end

