-- ==== Sys2Proof/Machine/Loading.lean ====
section
/-! DEFINITION. Loading and unloading runs and items (2.5, 2.6, 3.2). -/
namespace Sys2Proof.Machine

/-! ## LOAD_RUN -/

/-- The record of a run just opened (R46). -/
def LoadedRun.opened (lower upper : ShelfKey) (length : U16) : LoadedRun where
  lower := lower
  upper := upper
  length := clampTo Config.lengthMin Config.lengthMax length.toNat
  passCount := 0
  lastPass := .noPass
  stage := .loading
  shelf := .empty

/-- LOAD_RUN (R45, R46). -/
def serveLoadRun (run : U16) (lower upper : CarriedKey) (length : U16) (s : State) : Served :=
  match runOperand run with
  | none => refuse .range s
  | some r =>
    match readKey lower, readKey upper with
    | some lo, some hi =>
      if compareKeys lo hi = .gt then refuse .key s
      else
        match s.run r with
        | some _ => refuse .state s
        | none =>
          let x := LoadedRun.opened lo hi length
          taken (.length x.length) (s.setRun r x)
    | _, _ => refuse .key s

def execLoadRun (p : Port) (run : U16) (lower upper : CarriedKey) (length : U16) (s : State) :
    Host.Outcome State Fault Refusal :=
  .next (request (.loadRun p run lower upper length) (serveLoadRun run lower upper length) s)

/-! ## LOAD_ITEM -/

/-- The last loaded key of a run: the key of the entry at the end of its list (R21). -/
def State.lastLoadedKey (s : State) (x : LoadedRun) : Option ShelfKey :=
  (x.shelf.entries.getLast?.bind s.entry).map (·.key)

/-- The load checks of R25, in their order; `none` when all four pass. -/
def State.loadCheck (s : State) (x : LoadedRun) (tag : Tag) (key : ShelfKey) : Option Condition :=
  if betweenLimits key x.lower x.upper ≠ .eq then some .limits
  else if (s.lastLoadedKey x).any fun last => compareKeys key last == .lt then some .order
  else if (s.lookup tag).isSome then some .dupTag
  else if Config.poolPlaces ≤ s.pool.length ∨ Config.runCapacity ≤ x.shelf.entries.length then some .full
  else none

/-- The new entry (R26); a stray held for its tag is adopted (R27). -/
def Entry.loaded (tag : Tag) (key : ShelfKey) (r : RunNo) (initial : Status) : Option Stray → Entry
  | none =>
    { tag, key, homeRun := r, status := initial, judgement := none, flags := .clear, lastSighting := none }
  | some y =>
    { tag, key, homeRun := r, status := .displaced, judgement := some .visitor, flags := .clear,
      lastSighting := some { run := y.lastRun, position := y.lastPosition, port := y.lastPort,
                             serial := y.lastSerial, time := y.lastTime } }

/-- A new entry takes the lowest free place, joins the end of its home run's list and raises its tally (R20, R26,
R33). -/
def State.addEntry (s : State) (r : RunNo) (e : Entry) : State :=
  let i := lowestFree 0 s.pool
  { s with pool := tablePut i e s.pool }.updateRun r fun x =>
    { x with shelf := { entries := x.shelf.entries ++ [i], tallies := x.shelf.tallies.rise e.status } }

/-- LOAD_ITEM (R24 to R28, R110). -/
def serveLoadItem (run : U16) (tag : Tag) (key : CarriedKey) (initial : Byte) (s : State) : Served :=
  match runOperand run with
  | none => refuse .range s
  | some r =>
    match readKey key with
    | none => refuse .key s
    | some k =>
      match initialStatusOperand initial with
      | none => refuse .range s
      | some st =>
        match s.run r with
        | none => refuse .state s
        | some x =>
          if x.stage ≠ .loading then refuse .state s
          else
            match s.loadCheck x tag k with
            | some c => refuse c s
            | none =>
              let stray := s.strayOf tag
              let e := Entry.loaded tag k r st stray
              taken
                (.itemLoaded (lowestFree 0 s.pool) e.status e.judgement
                  (stray.map fun y => (y.lastRun, y.lastPosition)))
                ({ s with strays := s.strays.filter fun y => y.tag ≠ tag }.addEntry r e)

def execLoadItem (p : Port) (run : U16) (tag : Tag) (key : CarriedKey) (initial : Byte) (s : State) :
    Host.Outcome State Fault Refusal :=
  .next (request (.loadItem p run tag key initial) (serveLoadItem run tag key initial) s)

/-! ## LOAD_DONE -/

/-- LOAD_DONE (R47). -/
def serveLoadDone (run : U16) (s : State) : Served :=
  match runOperand run with
  | none => refuse .range s
  | some r =>
    match s.run r with
    | none => refuse .state s
    | some x =>
      if x.stage = .loading then taken (.itemCount x.shelf.entries.length) (s.setRun r { x with stage := .ready })
      else refuse .state s

def execLoadDone (p : Port) (run : U16) (s : State) : Host.Outcome State Fault Refusal :=
  .next (request (.loadDone p run) (serveLoadDone run) s)

/-! ## UNLOAD_RUN -/

/-- Whether a run may be unloaded: LOADING, or READY with a pass count of 0 (R30). -/
def LoadedRun.unloadable (x : LoadedRun) : Bool := x.stage == .loading || (x.stage == .ready && x.passCount == 0)

/-- Every entry of a run is freed and the run becomes UNLOADED (R31, R48). -/
def State.unload (s : State) (r : RunNo) : State :=
  { s with pool := s.pool.filter fun x => x.2.homeRun ≠ r, runs := tableErase r s.runs }

/-- UNLOAD_RUN (R30, R31). -/
def serveUnloadRun (run : U16) (s : State) : Served :=
  match runOperand run with
  | none => refuse .range s
  | some r =>
    match s.run r with
    | none => refuse .state s
    | some x => if x.unloadable then taken (.freed x.shelf.entries.length) (s.unload r) else refuse .state s

def execUnloadRun (p : Port) (run : U16) (s : State) : Host.Outcome State Fault Refusal :=
  .next (request (.unloadRun p run) (serveUnloadRun run) s)

end Sys2Proof.Machine
end

