-- ==== Sys2Proof/Machine/Reading.lean ====
section
/-! DEFINITION. The requests that read: READ_RUN, READ_ENTRY, READ_STRAY, READ_DISCREPANCY, LOCATE, QUERY_RUN and
QUERY_ITEM. READ_DISCREPANCY alone changes the state: it takes the record it reads. -/
namespace Sys2Proof.Machine

/-- READ_RUN (R66). -/
def serveReadRun (run : U16) (s : State) : Served :=
  match runOperand run with
  | none => refuse .range s
  | some r =>
    let figures := (s.run r).map fun x =>
      { record := x, itemCount := x.shelf.entries.length, completion := x.shelf.completion,
        timerRunning := x.stage.state == .claimed && s.mode == .counting : RunFigures }
    taken (.runReport r figures) s

def execReadRun (p : Port) (run : U16) (s : State) : Host.Outcome State Fault Refusal :=
  .next (request (.readRun p run) (serveReadRun run) s)

/-- The entry report of an entry (R37). -/
def State.entryReport (s : State) (i : Nat) (e : Entry) : EntryReport where
  index := i
  entry := e
  pendingIn := s.pendingRun i

/-- READ_ENTRY (R38). -/
def serveReadEntry (run : U16) (ordinal : Byte) (s : State) : Served :=
  match runOperand run with
  | none => refuse .range s
  | some r =>
    if Config.entryOrdinals ≤ ordinal.toNat then refuse .range s
    else
      let entries := match s.run r with
        | some x => x.shelf.entries
        | none => []
      match entries[ordinal.toNat]?.bind fun i => (s.entry i).map (s.entryReport i) with
      | some report => taken (.entryInList report entries.length) s
      | none => { condition := .none, data := .itemCount entries.length, state := s }

def execReadEntry (p : Port) (run : U16) (ordinal : Byte) (s : State) : Host.Outcome State Fault Refusal :=
  .next (request (.readEntry p run ordinal) (serveReadEntry run ordinal) s)

/-- READ_STRAY (R114). -/
def serveReadStray (ordinal : U16) (s : State) : Served :=
  if Config.strayOrdinals ≤ ordinal.toNat then refuse .range s
  else
    match s.strays[ordinal.toNat]? with
    | some y => taken (.stray y s.strays.length) s
    | none => { condition := .none, data := .strayCount s.strays.length, state := s }

def execReadStray (p : Port) (ordinal : U16) (s : State) : Host.Outcome State Fault Refusal :=
  .next (request (.readStray p ordinal) (serveReadStray ordinal) s)

/-- READ_DISCREPANCY (R142). -/
def serveReadDiscrepancy (s : State) : Served :=
  match s.discrepancies with
  | [] => { condition := .empty, data := .queueEmpty s.overflow, state := s }
  | d :: rest => taken (.discrepancy d rest.length s.overflow) { s with discrepancies := rest }

def execReadDiscrepancy (p : Port) (s : State) : Host.Outcome State Fault Refusal :=
  .next (request (.readDiscrepancy p) serveReadDiscrepancy s)

/-- The loaded runs, in ascending order, for which the between-limits test of a key gives a result (R13). -/
def State.runsTesting (s : State) (key : ShelfKey) (result : Ordering) : List RunNo :=
  (s.runs.filter fun x => betweenLimits key x.2.lower x.2.upper == result).map Prod.fst

/-- The preceding run of a LOCATE that finds none: the highest-numbered loaded run that the key lies ABOVE (R13). -/
def State.precedingRun (s : State) (key : ShelfKey) : Preceding :=
  match (s.runsTesting key .gt).getLast? with
  | some r => .run r
  | none => .noRun

/-- LOCATE (R12, R13). -/
def serveLocate (key : CarriedKey) (s : State) : Served :=
  match readKey key with
  | none => refuse .key s
  | some k =>
    let runs := s.runsTesting k .eq
    taken (.located runs.length (runs.take 8) (if runs.isEmpty then s.precedingRun k else .absent)) s

def execLocate (p : Port) (key : CarriedKey) (s : State) : Host.Outcome State Fault Refusal :=
  .next (request (.locate p key) (serveLocate key) s)

/-- The report on one shelf (R76). -/
def State.shelfReport (s : State) (w : WandPort) (i : ShelfIndex) : Data :=
  let r := (s.wand w).current.resolve i
  let figures := (s.run r).map fun x =>
    { itemCount := x.shelf.entries.length, tallies := x.shelf.tallies, completion := x.shelf.completion,
      passCount := x.passCount, lastOutcome := x.lastPass.outcome : ShelfFigures }
  .shelfReport i r (s.runState r) figures ((s.claim? r).map fun c => (c.claimant, c.claimant == w))

/-- The report on a whole bay (R77). -/
def State.bayReport (s : State) (w : WandPort) (side : Side) : BayReport :=
  let bay := (s.wand w).current.bay side
  let runs := allShelves.map (runAt bay)
  let sums := runs.foldl (fun t r => t.add (s.tallies r)) .zero
  let items := runs.foldl (fun n r => n + s.itemCount r) 0
  { side, bay, runs := runs.map fun r => (r, s.runState r), sums, itemCount := items,
    completion := completion items sums.expected sums.missing }

/-- QUERY_RUN (R76, R77). -/
def serveQueryRun (index : Byte) (w : WandPort) (s : State) : Served :=
  match indexOperand index with
  | none => refuse .range s
  | some (.shelf i) => taken (s.shelfReport w i) s
  | some (.wholeBay side) => taken (.bayReport (s.bayReport w side)) s

def execQueryRun (p : Port) (index : Byte) (s : State) : Host.Outcome State Fault Refusal :=
  .next (request (.queryRun p index) (asWand p (serveQueryRun index)) s)

/-- QUERY_ITEM (R36, R37). -/
def serveQueryItem (tag : Tag) (s : State) : Served :=
  match s.lookup tag with
  | none => refuse .notListed s
  | some (i, e) => taken (.entry (s.entryReport i e)) s

def execQueryItem (p : Port) (tag : Tag) (s : State) : Host.Outcome State Fault Refusal :=
  .next (request (.queryItem p tag) (serveQueryItem tag) s)

end Sys2Proof.Machine
end

