-- ==== Sys2Proof/Machine/Section.lean ====
section
/-! DEFINITION. Section Control (chapter 10): configuration, the device mode, the section clock, closing and wiping,
device reset, STATUS and TOTALS; and the expiry of claims that the clock brings (R55). -/
namespace Sys2Proof.Machine

/-! ## Configuration -/

/-- CONFIGURE writes all five parameters, each clamped to its range (R155). -/
def serveConfigure (debounce gap backtrack interval passes : U16) (s : State) : Served :=
  let c : Config.Params :=
    { debounceSpan := clampTo 10 100 debounce.toNat
      gapLimit := clampTo 60 400 gap.toNat
      backtrackTolerance := clampTo 0 200 backtrack.toNat
      claimInterval := clampTo 10 600 interval.toNat
      passLimit := clampTo 1 7 passes.toNat }
  taken (.configured c) { s with config := c }

def execConfigure (p : Port) (debounce gap backtrack interval passes : U16) (s : State) :
    Host.Outcome State Fault Refusal :=
  .next (request (.configure p debounce gap backtrack interval passes)
    (serveConfigure debounce gap backtrack interval passes) s)

/-! ## Opening and pausing the count -/

/-- START opens the count (R153). -/
def serveStart (s : State) : Served := taken (.started s.clock s.config) (s.enterMode .counting)

def execStart (p : Port) (s : State) : Host.Outcome State Fault Refusal := .next (request (.start p) serveStart s)

/-- PAUSE stops the claim timers by the change of mode alone: they run only in COUNTING (R53, R154). -/
def servePause (s : State) : Served := taken (.clock s.clock) (s.enterMode .paused)

def execPause (p : Port) (s : State) : Host.Outcome State Fault Refusal := .next (request (.pause p) servePause s)

/-- CONTINUE lets the claim timers of CLAIMED runs run again from their values (R154). -/
def serveContinue (s : State) : Served := taken (.clock s.clock) (s.enterMode .counting)

def execContinue (p : Port) (s : State) : Host.Outcome State Fault Refusal :=
  .next (request (.continueCount p) serveContinue s)

/-! ## The section clock and the claim timers -/

/-- The claim timer of a CLAIMED run falls by one; a HELD run's is stopped (R53, R156). -/
def tickStage : Stage → Stage
  | .claimed c => .claimed { c with timer := c.timer - 1 }
  | .held c => .held c
  | .loading => .loading
  | .ready => .ready
  | .checked => .checked
  | .rescan => .rescan
  | .review => .review
  | .closed => .closed

/-- The timers of all CLAIMED runs fall together (R156). -/
def State.tickTimers (s : State) : State :=
  { s with runs := s.runs.map fun x => (x.1, { x.2 with stage := tickStage x.2.stage }) }

/-- An advance of the section clock: in COUNTING and PAUSED the clock rises by one, and in COUNTING the timers of
CLAIMED runs fall by one (R156). -/
def State.advance (s : State) : State :=
  match s.mode with
  | .counting => { s with clock := s.clock + 1 }.tickTimers
  | .paused => { s with clock := s.clock + 1 }
  | .halted => s
  | .closing => s
  | .closed => s
  | .wiping => s

def execSectionClockAdvance (s : State) : Host.Outcome State Fault Refusal := .next (event State.advance s)

/-- CLAIM_EXPIRY: the claims whose running timers have reached 0 expire (R55). `event` takes them, as it does before
every other event. -/
def execClaimExpiry (s : State) : Host.Outcome State Fault Refusal := .next (event id s)

/-! ## The completion of an operation in flight -/

/-- OP_DONE is raised on LP5 at the completion of an operation; it is not raised once a DEVICE_RESET was taken while the
operation was in flight (R158, R159). LP5 handles no frame after a DEVICE_RESET (R161), so a completion that finds one
awaiting its effect is that of an operation during which it was taken. -/
def State.raiseOpDone (s : State) (op : Operation) : State :=
  if s.resetScheduled then s else s.notify .lp5 (.opDone op)

/-! ## Closing the section -/

/-- The number of entries that are EXPECTED. -/
def State.expectedEntries (s : State) : Nat := s.pool.countP fun x => x.2.status == .expected

/-- The number of loaded runs not CLOSED. -/
def State.runsToClose (s : State) : Nat := s.runs.countP fun x => x.2.stage.state != .closed

/-- CLOSE_SECTION: BUSY while a run is CLAIMED or HELD, STATE while one is LOADING, else the close begins (R157). -/
def serveCloseSection (s : State) : Served :=
  if s.runs.any fun x => x.2.stage.inFlight then refuse .busy s
  else if s.runs.any fun x => x.2.stage.state == .loading then refuse .state s
  else taken (.closing s.expectedEntries s.runsToClose) { s.enterMode .closing with operation := some .close }

def execCloseSection (p : Port) (s : State) : Host.Outcome State Fault Refusal :=
  .next (request (.closeSection p) serveCloseSection s)

/-- An entry at the close: EXPECTED becomes MISSING, every other field stays (R158). -/
def Entry.close (e : Entry) : Entry := if e.status = .expected then { e with status := .missing } else e

/-- A loaded run at the close: CLOSED, with the tally moves of its entries (R65, R158). -/
def LoadedRun.close (x : LoadedRun) : LoadedRun :=
  { x with stage := .closed, shelf := { x.shelf with tallies := x.shelf.tallies.close } }

/-- The completion of the close in flight (R158). That the mode changes also where a DEVICE_RESET was taken and awaits its
effect is a DESIGN CHOICE, notes/assumptions/18.md. -/
def State.completeClose (s : State) : State :=
  if s.mode = .closing then
    let pool := s.pool.map fun x => (x.1, x.2.close)
    let runs := s.runs.map fun x => (x.1, x.2.close)
    ({ s with pool, runs, operation := none }.enterMode .closed).raiseOpDone .close
  else s

def execCloseCompletion (s : State) : Host.Outcome State Fault Refusal := .next (event State.completeClose s)

/-! ## Wiping the part -/

/-- A context store at a wipe: the bays and the direction are kept, the rest is emptied (R78, R138). -/
def ContextStore.wipe (c : ContextStore) : ContextStore :=
  { current := { c.current with cursor := none, claimedRun := none }, stack := [], slot := none }

/-- WIPE empties the part as it begins (R159). -/
def serveWipe (s : State) : Served :=
  taken .empty
    { s.enterMode .wiping with operation := some .wipe, pool := [], runs := [], passSerial := 0, strays := [],
                               discrepancies := [], overflow := 0, wands := s.wands.map ContextStore.wipe,
                               clock := 0 }

def execWipe (p : Port) (s : State) : Host.Outcome State Fault Refusal := .next (request (.wipe p) serveWipe s)

/-- The completion of the wipe in flight (R159). That the mode changes also where a DEVICE_RESET was taken and awaits its
effect is a DESIGN CHOICE, notes/assumptions/18.md. -/
def State.completeWipe (s : State) : State :=
  if s.mode = .wiping then ({ s with operation := none }.enterMode .halted).raiseOpDone .wipe else s

def execWipeCompletion (s : State) : Host.Outcome State Fault Refusal := .next (event State.completeWipe s)

/-! ## Device reset -/

/-- DEVICE_RESET is answered, and takes effect when its response has been sent (R161). -/
def serveDeviceReset (s : State) : Served := taken .empty { s with resetScheduled := true }

def execDeviceReset (p : Port) (s : State) : Host.Outcome State Fault Refusal :=
  .next (request (.deviceReset p) serveDeviceReset s)

/-- The effect of a DEVICE_RESET: the last byte of its response leaves LP5 and the part takes its power-on values
(R161). Until that response is on the line there is no effect to take. -/
def State.takeDeviceReset (s : State) : State := if s.sendsResetResponse then s.powerOnValues s.receiving else s

def execDeviceResetEffect (s : State) : Host.Outcome State Fault Refusal := .next (event State.takeDeviceReset s)

/-! ## STATUS and TOTALS -/

/-- STATUS (R162). -/
def serveStatus (s : State) : Served :=
  taken (.status s.mode s.operation s.clock s.passSerial s.pool.length s.strays.length s.discrepancies.length
    s.overflow) s

def execStatus (p : Port) (s : State) : Host.Outcome State Fault Refusal := .next (request (.status p) serveStatus s)

/-- The sums of the tallies over the loaded runs; UNLOADED runs add 0 (R15, R163). -/
def State.tallySums (s : State) : Tallies := s.runs.foldl (fun t x => t.add x.2.shelf.tallies) .zero

/-- The sum of the item counts of the loaded runs (R15). -/
def State.itemSum (s : State) : Nat := s.runs.foldl (fun n x => n + x.2.shelf.entries.length) 0

/-- The number of runs in one state; the runs not loaded are UNLOADED (R163). -/
def State.runsIn (s : State) : RunState → Nat
  | .unloaded => Config.runCount - s.runs.length
  | st => s.runs.countP fun x => x.2.stage.state == st

/-- TOTALS (R163). -/
def serveTotals (s : State) : Served :=
  let sums := s.tallySums
  taken (.totals sums (RunState.all.map s.runsIn) (completion s.itemSum sums.expected sums.missing)) s

def execTotals (p : Port) (s : State) : Host.Outcome State Fault Refusal := .next (request (.totals p) serveTotals s)

end Sys2Proof.Machine
end

