-- ==== Sys2Proof/Machine/Runs.lean ====
section
/-! DEFINITION. Claims, the ends of passes, and the closing and recounting of runs (chapter 3, 4.4). -/
namespace Sys2Proof.Machine

/-! ## CLAIM and CLAIM_NEXT -/

/-- Whether a run admits a claim: READY or RESCAN (R49). -/
def Stage.claimable : Stage → Bool
  | .ready => true
  | .rescan => true
  | .loading => false
  | .claimed _ => false
  | .held _ => false
  | .checked => false
  | .review => false
  | .closed => false

/-- The record of a pass that begins (R51). -/
def PassRecord.begin (serial : U32) (direction : Direction) : PassRecord where
  serial := serial
  direction := direction
  anchor := none
  pendingEntry := none
  lastPosition := none
  counters := .zero

/-- An accepted claim begins a pass (R50). -/
def State.beginPass (s : State) (w : WandPort) (i : ShelfIndex) (r : RunNo) (x : LoadedRun) : State :=
  let direction := (s.wand w).current.direction
  let serial := s.passSerial + 1
  let claim : Claim :=
    { claimant := w, timer := s.config.claimInterval, pass := PassRecord.begin serial direction }
  ({ s with passSerial := serial }.setRun r { x with passCount := x.passCount + 1, stage := .claimed claim }
    ).updateContext w fun c => { c with cursor := some i, claimedRun := some r }

/-- The items of the response to an accepted claim (R50). -/
def State.claimReport (s : State) (w : WandPort) (r : RunNo) (x : LoadedRun) : ClaimReport where
  run := r
  serial := s.passSerial + 1
  passCount := x.passCount + 1
  direction := (s.wand w).current.direction
  length := x.length
  itemCount := x.shelf.entries.length

/-- CLAIM (R49, R50). -/
def serveClaim (index : Byte) (w : WandPort) (s : State) : Served :=
  match shelfOperand index with
  | none => refuse .range s
  | some i =>
    let c := (s.wand w).current
    let r := c.resolve i
    match s.run r with
    | none => refuse .state s
    | some x =>
      if !x.stage.claimable then refuse .state s
      else if c.claimedRun ≠ none then refuse .holding s
      else if s.passSerial.toNat = Config.serialMax then refuse .full s
      else taken (.claimed (s.claimReport w r x)) (s.beginPass w i r x)

def execClaim (p : Port) (index : Byte) (s : State) : Host.Outcome State Fault Refusal :=
  .next (request (.claim p index) (asWand p (serveClaim index)) s)

/-- The first run of the search that admits a claim (R74). -/
def State.searchClaim (s : State) (c : Context) : List ShelfIndex → Option (ShelfIndex × LoadedRun)
  | [] => none
  | i :: rest =>
    match s.run (c.resolve i) with
    | some x => if x.stage.claimable then some (i, x) else s.searchClaim c rest
    | none => s.searchClaim c rest

/-- CLAIM_NEXT (R74). -/
def serveClaimNext (w : WandPort) (s : State) : Served :=
  let c := (s.wand w).current
  if c.claimedRun ≠ none then refuse .holding s
  else
    match s.searchClaim c (searchOrder c.cursor) with
    | none => refuse .none s
    | some (i, x) =>
      if s.passSerial.toNat = Config.serialMax then refuse .full s
      else
        let r := c.resolve i
        taken (.claimedNext i (s.claimReport w r x)) (s.beginPass w i r x)

def execClaimNext (p : Port) (s : State) : Host.Outcome State Fault Refusal :=
  .next (request (.claimNext p) (asWand p serveClaimNext) s)

/-! ## The order check (R91 to R98) -/

/-- The judgement that an arriving home item brings the pending entry (R93, R94). -/
def arrivalJudgement (direction : Direction) (anchor : Option ShelfKey) (pendingKey arriving : ShelfKey) : Judgement :=
  match anchor with
  | none => if comesNoLater direction pendingKey arriving then .inOrder else .ahead
  | some a =>
    if comesBefore direction pendingKey a then .behind
    else if comesNoLater direction pendingKey arriving then .inOrder
    else if comesBefore direction arriving a then .inOrder
    else .ahead

/-- The judgement of the pending entry at the end of a pass (R95): BEHIND when it comes before the anchor. -/
def passEndJudgement (direction : Direction) (anchor : Option ShelfKey) (pendingKey : ShelfKey) : Judgement :=
  match anchor with
  | none => .inOrder
  | some a => if comesBefore direction pendingKey a then .behind else .inOrder

/-- The key of the anchor, if there is one. -/
def State.anchorKey (s : State) (p : PassRecord) : Option ShelfKey := (p.anchor.bind s.entry).map (·.key)

/-- The discrepancy record of a judgement AHEAD or BEHIND (R98, R140). -/
def judgementRecord (s : State) (k : DiscrepancyKind) (r : RunNo) (w : WandPort) (i : Nat) (e : Entry) : Discrepancy :=
  { kind := k, time := s.clock, run := some r, port := some w.port, entry := some i, tag := some e.tag,
    position := e.lastSighting.map (·.position) }

/-- The position that a PULL prompt carries for an entry: that of its last sighting (R98). -/
def Entry.position (e : Entry) : Nat :=
  match e.lastSighting with
  | some l => l.position
  | none => 0

/-- A judgement is given to an entry of the run that a wand holds, with its effects (R97, R98). -/
def State.judge (s : State) (r : RunNo) (w : WandPort) (i : Nat) (e : Entry) (j : Judgement) : State :=
  let judged (s : State) (st : Status) (k : Counter) : State :=
    ((s.updateEntry i fun e => { e with judgement := some j }).setStatus i st).count r k
  match j with
  | .inOrder => judged s .shelved .inOrder
  | .ahead =>
    ((judged s .displaced .ahead).offer (judgementRecord s .ahead r w i e)).prompt w (.pull e.tag e.position (some j))
  | .behind =>
    ((judged s .displaced .behind).offer (judgementRecord s .behind r w i e)).prompt w
      (.pull e.tag e.position (some j))
  | .visitor => s
  | .unjudged => s

/-! ## The end of a pass (R56 to R60) -/

/-- What a RUN_END or RUN_ABANDON finds (R56): the claim it is taken on, or the condition it is refused with. -/
def State.claimantTest (s : State) (w : WandPort) (r : RunNo) : Condition ⊕ (LoadedRun × Claim) :=
  match s.run r with
  | none => .inl .noClaim
  | some x =>
    match x.stage with
    | .claimed c => if c.claimant = w then .inr (x, c) else .inl .notClaimant
    | .held _ => .inl .notClaimant
    | _ => if x.lastPass.port? = some w then .inl .notClaimant else .inl .noClaim

/-- The pass-end judgement of the pending entry, if there is one (R57, R95). -/
def State.judgePassEnd (s : State) (r : RunNo) (w : WandPort) (p : PassRecord) : State :=
  match p.pendingEntry with
  | none => s
  | some i =>
    match s.entry i with
    | none => s
    | some e => s.judge r w i e (passEndJudgement p.direction (s.anchorKey p) e.key)

/-- The counters of the pass on a run. -/
def State.counters (s : State) (r : RunNo) : Counters :=
  match s.claim? r with
  | some c => c.pass.counters
  | none => .zero

/-- RUN_END (R56, R57). -/
def serveRunEnd (run : U16) (w : WandPort) (s : State) : Served :=
  match runOperand run with
  | none => refuse .range s
  | some r =>
    match s.claimantTest w r with
    | .inl c => refuse c s
    | .inr (x, c) =>
      let s := s.judgePassEnd r w c.pass
      let counters := s.counters r
      let clean := counters.clean
      let stage : Stage := if clean then .checked else stageAfterPass x.passCount s.config.passLimit
      let outcome : PassOutcome := if clean then .clean else .unclean
      let last : LastPass := if clean then .clean w c.pass.serial else .unclean w c.pass.serial
      let s := s.updateRun r fun x => { x with stage := stage, lastPass := last }
      let s := s.updateContext w fun c => { c with claimedRun := none }
      taken (.passEnded r outcome stage.state x.passCount counters) (s.notify .lp5 (.passDone r outcome))

def execRunEnd (p : Port) (run : U16) (s : State) : Host.Outcome State Fault Refusal :=
  .next (request (.runEnd p run) (asWand p (serveRunEnd run)) s)

/-- RUN_ABANDON (R56, R59). -/
def serveRunAbandon (run : U16) (w : WandPort) (s : State) : Served :=
  match runOperand run with
  | none => refuse .range s
  | some r =>
    match s.claimantTest w r with
    | .inl c => refuse c s
    | .inr (x, c) =>
      taken
        (.passAbandoned r (stageAfterPass x.passCount s.config.passLimit).state x.passCount c.pass.counters)
        (s.abandon r .runAbandon)

def execRunAbandon (p : Port) (run : U16) (s : State) : Host.Outcome State Fault Refusal :=
  .next (request (.runAbandon p run) (asWand p (serveRunAbandon run)) s)

/-- FORCE_RELEASE (R60). -/
def serveForceRelease (run : U16) (s : State) : Served :=
  match runOperand run with
  | none => refuse .range s
  | some r =>
    match s.run r with
    | none => refuse .state s
    | some x =>
      match x.stage.claim? with
      | none => refuse .state s
      | some c =>
        taken (.released r c.claimant (stageAfterPass x.passCount s.config.passLimit).state)
          (s.releaseClaim r .forced)

def execForceRelease (p : Port) (run : U16) (s : State) : Host.Outcome State Fault Refusal :=
  .next (request (.forceRelease p run) (serveForceRelease run) s)

/-! ## Recounting and closing runs -/

/-- RESET_PASSES (R63). -/
def serveResetPasses (run : U16) (s : State) : Served :=
  match runOperand run with
  | none => refuse .range s
  | some r =>
    match s.run r with
    | none => refuse .state s
    | some x =>
      if x.stage = .checked ∨ x.stage = .review then
        taken (.run r) (s.setRun r { x with stage := .rescan, passCount := 0 })
      else refuse .state s

def execResetPasses (p : Port) (run : U16) (s : State) : Host.Outcome State Fault Refusal :=
  .next (request (.resetPasses p run) (serveResetPasses run) s)

/-- Whether CLOSE_RUN takes a run: READY, CHECKED, RESCAN or REVIEW (R64). -/
def Stage.closable : Stage → Bool
  | .ready => true
  | .checked => true
  | .rescan => true
  | .review => true
  | .loading => false
  | .claimed _ => false
  | .held _ => false
  | .closed => false

/-- CLOSE_RUN (R64). -/
def serveCloseRun (run : U16) (s : State) : Served :=
  match runOperand run with
  | none => refuse .range s
  | some r =>
    match s.run r with
    | none => refuse .state s
    | some x =>
      if x.stage.closable then taken (.runClosed r x.shelf.completion) (s.setRun r { x with stage := .closed })
      else refuse .state s

def execCloseRun (p : Port) (run : U16) (s : State) : Host.Outcome State Fault Refusal :=
  .next (request (.closeRun p run) (serveCloseRun run) s)

end Sys2Proof.Machine
end

