-- ==== Sys2Proof/Machine/Sightings.lean ====
section
/-! DEFINITION. SIGHT (chapters 5 and 6): the position tests, the classification of a sighting, the order check's
arrival, re-sightings and strays. -/
namespace Sys2Proof.Machine

/-! ## Position tests (R81 to R84) -/

/-- The position lies behind the last accepted position by more than the tolerance (R82). -/
def isBacktrack (direction : Direction) (tolerance last position : Nat) : Bool :=
  match direction with
  | .forward => decide (position + tolerance < last)
  | .reverse => decide (last + tolerance < position)

/-- The advance from the last accepted position exceeds the gap limit (R83). -/
def isGap (direction : Direction) (limit last position : Nat) : Bool :=
  match direction with
  | .forward => decide (last + limit < position)
  | .reverse => decide (position + limit < last)

/-- The last accepted position after a sighting: it advances in the direction of travel only (R84). -/
def advancePosition (direction : Direction) (last : Option Nat) (position : Nat) : Nat :=
  match last with
  | none => position
  | some l =>
    match direction with
    | .forward => max l position
    | .reverse => min l position

/-- The distance between two positions, in either direction along the shelf. -/
def distance (a b : Nat) : Nat := (a - b) + (b - a)

/-- The gap test of a sighting (R83). -/
def State.gapTest (s : State) (r : RunNo) (w : WandPort) (p : PassRecord) (position : Nat) : State :=
  match p.lastPosition with
  | none => s
  | some l =>
    if isGap p.direction s.config.gapLimit l position then
      ((s.offer { kind := .gap, time := s.clock, run := some r, port := some w.port, position := some l,
                  positionTo := some position }).count r .gaps).prompt w (.gap l position)
    else s

/-- An accepted sighting advances the last accepted position and sets the claim timer to the full interval
(R84, R54). -/
def State.accept (s : State) (r : RunNo) (position : Nat) : State :=
  s.updateClaim r fun c =>
    { c with timer := s.config.claimInterval,
             pass := { c.pass with
                       lastPosition := some (advancePosition c.pass.direction c.pass.lastPosition position) } }

/-! ## Strays (R105 to R109) -/

/-- A new stray record (R106). -/
def Stray.new (s : State) (r : RunNo) (w : WandPort) (serial : U32) (position : Nat) (tag : Tag) : Stray where
  tag := tag
  firstRun := r
  firstPosition := position
  firstPort := w
  lastRun := r
  lastPosition := position
  lastPort := w
  lastSerial := serial
  lastTime := s.clock
  count := 1

/-- A stray record updated by a further reading (R107). -/
def Stray.again (y : Stray) (s : State) (r : RunNo) (w : WandPort) (serial : U32) (position : Nat) : Stray :=
  { y with lastRun := r, lastPosition := position, lastPort := w, lastSerial := serial, lastTime := s.clock,
           count := saturatingSucc Config.sightingCountMax y.count }

/-- A record joins the end of the Stray List, and STRAY_FULL is raised when it is the 512th (R106, R109). -/
def State.addStray (s : State) (y : Stray) : State :=
  let s' := { s with strays := s.strays ++ [y] }
  if s'.strays.length = Config.strayCapacity then s'.notify .lp5 .strayFull else s'

/-- A reading of a tag that is not listed, settled by the rows of R105 (R86, R105 to R108). -/
def State.sightStray (s : State) (r : RunNo) (w : WandPort) (serial : U32) (position : Nat) (tag : Tag) :
    SightOutcome × State :=
  match s.strayOf tag with
  | some y =>
    if y.lastSerial = serial ∧ y.lastRun = r ∧ distance position y.lastPosition ≤ s.config.debounceSpan then
      (.absorbed, s)
    else
      let strays := s.strays.map fun z => if z.tag = tag then z.again s r w serial position else z
      (.strayAgain, { s with strays }.count r .strays)
  | none =>
    if s.strays.length < Config.strayCapacity then
      (.strayNew, ((s.addStray (Stray.new s r w serial position tag)).count r .strays).prompt w
        (.pull tag position none))
    else
      (.strayLost, (s.offer { kind := .strayLost, time := s.clock, run := some r, port := some w.port, tag := some tag,
                              position := some position }).count r .strays)

/-! ## Re-sightings (R111, R112) -/

/-- The last sighting that a reading writes (R19). -/
def State.reading (s : State) (r : RunNo) (w : WandPort) (serial : U32) (position : Nat) : LastSighting where
  run := r
  position := position
  port := w
  serial := serial
  time := s.clock

/-- A second reading of an entry within a pass: absorbed within the debounce span, else a move (R111, R112). -/
def State.sightAgain (s : State) (r : RunNo) (w : WandPort) (serial : U32) (position : Nat) (i : Nat) (e : Entry)
    (l : LastSighting) : SightOutcome × State :=
  if l.run = r ∧ distance position l.position ≤ s.config.debounceSpan then (.absorbed, s)
  else
    let s' := s.updateEntry i fun e => { e with flags := { e.flags with moved := true } }
    let s' := s'.offer { kind := .moved, time := s.clock, run := some l.run, port := some w.port, entry := some i,
                         tag := some e.tag, position := some l.position, positionTo := some position,
                         runTo := some r }
    let s' := s'.updateEntry i fun e => { e with lastSighting := some (s.reading r w serial position) }
    (.moved, s'.count r .moved)

/-! ## Fresh sightings (R88 to R94) -/

/-- The discrepancy record of a reading of an entry (R88, R89, R140). -/
def readingRecord (s : State) (k : DiscrepancyKind) (r : RunNo) (w : WandPort) (i : Nat) (tag : Tag) (position : Nat) :
    Discrepancy :=
  { kind := k, time := s.clock, run := some r, port := some w.port, entry := some i, tag := some tag,
    position := some position }

/-- A home item enters the order check: the pending entry is judged and the arriving item takes its place
(R91 to R94). -/
def State.arrive (s : State) (r : RunNo) (w : WandPort) (p : PassRecord) (i : Nat) (key : ShelfKey) : State :=
  let enter (s : State) : State := s.updatePass r fun p => { p with pendingEntry := some i }
  match p.pendingEntry with
  | none => enter s
  | some j =>
    match s.entry j with
    | none => enter s
    | some e =>
      let judgement := arrivalJudgement p.direction (s.anchorKey p) e.key key
      let s := s.judge r w j e judgement
      enter (if judgement = .inOrder then s.updatePass r fun p => { p with anchor := some j } else s)

/-- A fresh sighting makes an entry of another run a visitor (R89). -/
def State.visit (s : State) (r : RunNo) (w : WandPort) (position : Nat) (i : Nat) (e : Entry) : State :=
  let s := (s.updateEntry i fun e => { e with judgement := some .visitor }).setStatus i .displaced
  let s := s.count r .visitors
  (s.offer (readingRecord s .visitor r w i e.tag position)).prompt w (.pull e.tag position (some .visitor))

/-- A fresh sighting of an entry (R88): withdrawal, last sighting, loan conflict, then foreign or home. -/
def State.sightFresh (s : State) (r : RunNo) (w : WandPort) (serial : U32) (position : Nat) (i : Nat) (e : Entry) :
    SightOutcome × State :=
  let s := s.withdraw i
  let s := s.updateEntry i fun e => { e with lastSighting := some (s.reading r w serial position) }
  let s :=
    if e.status = .onLoan then
      (s.updateEntry i fun e => { e with flags := { e.flags with loanConflict := true } }).offer
        (readingRecord s .phantomLoan r w i e.tag position)
    else s
  if e.homeRun ≠ r then (.visitor, s.visit r w position i e)
  else
    let s := s.updateEntry i fun e => { e with judgement := some .unjudged }
    match s.claim? r with
    | some c => (.inRun, s.arrive r w c.pass i e.key)
    | none => (.inRun, s)

/-! ## One sighting, and the request -/

/-- A sighting that has passed the backtrack test, its position steps made, is classified (R85). -/
def State.classify (s : State) (r : RunNo) (w : WandPort) (serial : U32) (position : Nat) (clamped : Bool) (tag : Tag) :
    SightOutcome × State :=
  match s.lookup tag with
  | none => s.sightStray r w serial position tag
  | some (i, e) =>
    let s :=
      if clamped then s.updateEntry i fun e => { e with flags := { e.flags with clamped := true } } else s
    match e.lastSighting with
    | some l => if l.serial = serial then s.sightAgain r w serial position i e l
                else s.sightFresh r w serial position i e
    | none => s.sightFresh r w serial position i e

/-- One sighting in the pass of a claimed run: its outcome, its clamp flag and the state (R80 to R85). -/
def State.sightOne (s : State) (r : RunNo) (w : WandPort) (x : Sighting) : (SightOutcome × Bool) × State :=
  match s.run r with
  | none => ((.backtrack, false), s)
  | some run =>
    match run.stage.claim? with
    | none => ((.backtrack, false), s)
    | some c =>
      let position := min x.position.toNat run.length
      let clamped := decide (run.length < x.position.toNat)
      if c.pass.lastPosition.any fun l => isBacktrack c.pass.direction s.config.backtrackTolerance l position then
        ((.backtrack, clamped), s)
      else
        let s := (s.gapTest r w c.pass position).accept r position
        let (outcome, s) := s.classify r w c.pass.serial position clamped x.tag
        ((outcome, clamped), s)

/-- The sightings of a frame, one after another (R80). -/
def State.sightAll (s : State) (r : RunNo) (w : WandPort) : List Sighting → List (SightOutcome × Bool) × State
  | [] => ([], s)
  | x :: rest =>
    let (outcome, s) := s.sightOne r w x
    let (outcomes, s) := s.sightAll r w rest
    (outcome :: outcomes, s)

/-- SIGHT (R79, R80). -/
def serveSight (sightings : List Sighting) (w : WandPort) (s : State) : Served :=
  match (s.wand w).current.claimedRun with
  | none => refuse .noClaim s
  | some r =>
    match s.claim? r with
    | none => refuse .noClaim s
    | some _ =>
      let (outcomes, s) := s.sightAll r w sightings
      taken (.sighted outcomes ((s.claim? r).bind fun c => c.pass.lastPosition)) s

def execSight (p : Port) (sightings : List Sighting) (s : State) : Host.Outcome State Fault Refusal :=
  .next (request (.sight p sightings) (asWand p (serveSight sightings)) s)

end Sys2Proof.Machine
end

