-- ==== Sys2Proof/Machine/Dispatch.lean ====
section
/-! DEFINITION. `exec`: one arm for each command, each one call of its meaning. -/
namespace Sys2Proof.Machine

def exec (i : Instr) (s : State) : Host.Outcome State Fault Refusal :=
  match i with
  | .configure p a b c d e => Sys2Proof.Machine.execConfigure p a b c d e s
  | .start p => Sys2Proof.Machine.execStart p s
  | .pause p => Sys2Proof.Machine.execPause p s
  | .continueCount p => Sys2Proof.Machine.execContinue p s
  | .closeSection p => Sys2Proof.Machine.execCloseSection p s
  | .closeCompletion => Sys2Proof.Machine.execCloseCompletion s
  | .wipe p => Sys2Proof.Machine.execWipe p s
  | .wipeCompletion => Sys2Proof.Machine.execWipeCompletion s
  | .deviceReset p => Sys2Proof.Machine.execDeviceReset p s
  | .deviceResetEffect => Sys2Proof.Machine.execDeviceResetEffect s
  | .status p => Sys2Proof.Machine.execStatus p s
  | .totals p => Sys2Proof.Machine.execTotals p s
  | .loadRun p run lower upper length => Sys2Proof.Machine.execLoadRun p run lower upper length s
  | .loadItem p run tag key initial => Sys2Proof.Machine.execLoadItem p run tag key initial s
  | .loadDone p run => Sys2Proof.Machine.execLoadDone p run s
  | .unloadRun p run => Sys2Proof.Machine.execUnloadRun p run s
  | .closeRun p run => Sys2Proof.Machine.execCloseRun p run s
  | .resetPasses p run => Sys2Proof.Machine.execResetPasses p run s
  | .forceRelease p run => Sys2Proof.Machine.execForceRelease p run s
  | .readRun p run => Sys2Proof.Machine.execReadRun p run s
  | .readEntry p run ordinal => Sys2Proof.Machine.execReadEntry p run ordinal s
  | .readStray p ordinal => Sys2Proof.Machine.execReadStray p ordinal s
  | .readDiscrepancy p => Sys2Proof.Machine.execReadDiscrepancy p s
  | .locate p key => Sys2Proof.Machine.execLocate p key s
  | .setDivert p wand a b d => Sys2Proof.Machine.execSetDivert p wand a b d s
  | .divert p wand => Sys2Proof.Machine.execDivert p wand s
  | .setWindow p a b => Sys2Proof.Machine.execSetWindow p a b s
  | .setDirection p d => Sys2Proof.Machine.execSetDirection p d s
  | .claim p index => Sys2Proof.Machine.execClaim p index s
  | .claimNext p => Sys2Proof.Machine.execClaimNext p s
  | .sight p sightings => Sys2Proof.Machine.execSight p sightings s
  | .runEnd p run => Sys2Proof.Machine.execRunEnd p run s
  | .runAbandon p run => Sys2Proof.Machine.execRunAbandon p run s
  | .resume p => Sys2Proof.Machine.execResume p s
  | .queryRun p index => Sys2Proof.Machine.execQueryRun p index s
  | .queryItem p tag => Sys2Proof.Machine.execQueryItem p tag s
  | .setMask p kinds => Sys2Proof.Machine.execSetMask p kinds s
  | .loan p tag => Sys2Proof.Machine.execLoan p tag s
  | .returnItem p tag => Sys2Proof.Machine.execReturn p tag s
  | .sectionClockAdvance => Sys2Proof.Machine.execSectionClockAdvance s
  | .claimExpiry => Sys2Proof.Machine.execClaimExpiry s
  | .frameReceived p bytes => Sys2Proof.Machine.execFrameReceived p bytes s
  | .frameRejected p => Sys2Proof.Machine.execFrameRejected p s
  | .frameTimeout p => Sys2Proof.Machine.execFrameTimeout p s
  | .transmitFrameEnd p => Sys2Proof.Machine.execTransmitFrameEnd p s
  | .portReset p => Sys2Proof.Machine.execPortReset p s
  | .powerOn => Sys2Proof.Machine.execPowerOn s
  | .externalReset => Sys2Proof.Machine.execExternalReset s
  | .resetRelease => Sys2Proof.Machine.execResetRelease s
  | .startByte p => Sys2Proof.Machine.execStartByte p s
  | .frameLengthInvalid p length => Sys2Proof.Machine.execFrameLengthInvalid p length s
  | .breakEnd p => Sys2Proof.Machine.execBreakEnd p s
  | .receiveEnable => Sys2Proof.Machine.execReceiveEnable s

end Sys2Proof.Machine
end

