-- ==== Sys2Proof/Machine/Wire.lean ====
section
/-! DEFINITION. What the partners receive: the frames of responses and notices, byte for byte (R165, R166, R169), and
the frame on a port's transmit line. -/
namespace Sys2Proof.Machine

/-! ## Fields (R166) -/

/-- A number in 2 bytes. -/
def numberBytes (n : Nat) : List Byte := u16Bytes (BitVec.ofNat 16 n)

/-- A number in 1 byte. -/
def shortBytes (n : Nat) : List Byte := [BitVec.ofNat 8 n]

def runBytes (r : RunNo) : List Byte := numberBytes r.val

def bayBytes (b : Bay) : List Byte := shortBytes b.val

def wandBytes (w : WandPort) : List Byte := [w.port.number]

/-- An indication, 1 set and 0 clear. -/
def indicationBytes (b : Bool) : List Byte := [if b then 1 else 0]

/-- An optional field: a presence byte and the field, its bytes 0 when absent. -/
def optionalBytes {α : Type} (width : Nat) (bytes : α → List Byte) : Option α → List Byte
  | none => 0 :: List.replicate width 0
  | some x => 1 :: bytes x

/-- Digits two to a byte, left-aligned in three bytes, unused positions 0 (R2, R166). -/
def heldDigitBytes (digits : List Nat) : List Byte :=
  let d (k : Nat) : BitVec 4 := BitVec.ofNat 4 (digits.getD k 0)
  digitBytes { d1 := d 0, d2 := d 1, d3 := d 2, d4 := d 3, d5 := d 4, d6 := d 5 }

def heldCutterBytes : Option Cutter → List Byte
  | none => [0, 0, 0, 0, 0]
  | some c => [c.letter] ++ shortBytes c.digits.length ++ heldDigitBytes c.digits

/-- A held key in 24 bytes, zero in every ignored position (R2, R166). -/
def heldKeyBytes (k : ShelfKey) : List Byte :=
  [k.letters.getD 0 0, k.letters.getD 1 0, k.letters.getD 2 0] ++ numberBytes k.classInteger ++
    shortBytes k.fraction.length ++ heldDigitBytes k.fraction ++ heldCutterBytes k.cutter1 ++
    heldCutterBytes k.cutter2 ++ numberBytes (k.year.getD 0) ++ numberBytes (k.volume.getD 0) ++ [0]

def tallyBytes (t : Tallies) : List Byte :=
  [t.expected, t.shelved, t.displaced, t.onLoan, t.returned, t.missing].flatMap numberBytes

def counterBytes (c : Counters) : List Byte :=
  [c.inOrder, c.ahead, c.behind, c.visitors, c.strays, c.gaps, c.moved].flatMap numberBytes

def paramBytes (c : Config.Params) : List Byte :=
  [c.debounceSpan, c.gapLimit, c.backtrackTolerance, c.claimInterval, c.passLimit].flatMap numberBytes

def preparedBytes (c : Prepared) : List Byte := bayBytes c.bayA ++ bayBytes c.bayB ++ [directionCode c.direction]

/-- A last sighting in 13 bytes. -/
def lastSightingBytes (l : LastSighting) : List Byte :=
  runBytes l.run ++ numberBytes l.position ++ wandBytes l.port ++ u32Bytes l.serial ++ u32Bytes l.time

def entryReportBytes (x : EntryReport) : List Byte :=
  numberBytes x.index ++ tagBytes x.entry.tag ++ heldKeyBytes x.entry.key ++ runBytes x.entry.homeRun ++
    [x.entry.status.code] ++ optionalBytes 1 (fun j => [Judgement.code j]) x.entry.judgement ++
    [x.entry.flags.code] ++ optionalBytes 13 lastSightingBytes x.entry.lastSighting ++
    optionalBytes 2 runBytes x.pendingIn

/-- A last pass: its outcome, then its port, serial and reason as optional fields. -/
def lastPassBytes : LastPass → List Byte
  | .noPass => [0] ++ optionalBytes 1 wandBytes none ++ optionalBytes 4 u32Bytes none ++
      optionalBytes 1 (fun x => [Reason.code x]) none
  | .clean p n => [1] ++ optionalBytes 1 wandBytes (some p) ++ optionalBytes 4 u32Bytes (some n) ++
      optionalBytes 1 (fun x => [Reason.code x]) none
  | .unclean p n => [2] ++ optionalBytes 1 wandBytes (some p) ++ optionalBytes 4 u32Bytes (some n) ++
      optionalBytes 1 (fun x => [Reason.code x]) none
  | .abandoned y p n => [3] ++ optionalBytes 1 wandBytes (some p) ++ optionalBytes 4 u32Bytes (some n) ++
      optionalBytes 1 (fun x => [Reason.code x]) (some y)

def claimReportBytes (x : ClaimReport) : List Byte :=
  runBytes x.run ++ u32Bytes x.serial ++ numberBytes x.passCount ++ [directionCode x.direction] ++
    numberBytes x.length ++ numberBytes x.itemCount

/-- What READ_RUN adds for a CLAIMED or HELD run (R66). -/
def claimBytes (c : Claim) (running : Bool) : List Byte :=
  wandBytes c.claimant ++ numberBytes c.timer ++ indicationBytes running ++ u32Bytes c.pass.serial ++
    [directionCode c.pass.direction] ++ optionalBytes 2 numberBytes c.pass.anchor ++
    optionalBytes 2 numberBytes c.pass.pendingEntry ++ optionalBytes 2 numberBytes c.pass.lastPosition ++
    counterBytes c.pass.counters

def runFiguresBytes (x : RunFigures) : List Byte :=
  heldKeyBytes x.record.lower ++ heldKeyBytes x.record.upper ++ numberBytes x.record.length ++
    numberBytes x.itemCount ++ tallyBytes x.record.shelf.tallies ++ numberBytes x.completion ++
    numberBytes x.record.passCount ++ lastPassBytes x.record.lastPass ++
    (match x.record.stage.claim? with
      | some c => claimBytes c x.timerRunning
      | none => [])

def shelfFiguresBytes (x : ShelfFigures) : List Byte :=
  numberBytes x.itemCount ++ tallyBytes x.tallies ++ numberBytes x.completion ++ numberBytes x.passCount ++
    [x.lastOutcome.code]

def strayBytes (y : Stray) : List Byte :=
  tagBytes y.tag ++ runBytes y.firstRun ++ numberBytes y.firstPosition ++ wandBytes y.firstPort ++
    runBytes y.lastRun ++ numberBytes y.lastPosition ++ wandBytes y.lastPort ++ u32Bytes y.lastSerial ++
    u32Bytes y.lastTime ++ shortBytes y.count

def discrepancyBytes (d : Discrepancy) : List Byte :=
  [d.kind.code] ++ u32Bytes d.time ++ optionalBytes 2 runBytes d.run ++
    optionalBytes 1 (fun p => [Port.number p]) d.port ++ optionalBytes 2 numberBytes d.entry ++
    optionalBytes 8 tagBytes d.tag ++ optionalBytes 2 numberBytes d.position ++
    optionalBytes 2 numberBytes d.positionTo ++ optionalBytes 2 runBytes d.runTo ++
    optionalBytes 1 (fun x => [Reason.code x]) d.reason

def circulationBytes (x : CirculationReport) : List Byte :=
  numberBytes x.index ++ runBytes x.homeRun ++ [x.found.code, x.after.code, x.flags.code] ++
    optionalBytes 1 (fun k => [DiscrepancyKind.code k]) x.record

def precedingBytes : Preceding → List Byte
  | .absent => [0, 0, 0]
  | .noRun => [1, 0, 0]
  | .run r => 2 :: runBytes r

/-- The run list of a LOCATE: eight run numbers, those not listed 0. -/
def runListBytes (runs : List RunNo) : List Byte :=
  runs.flatMap runBytes ++ List.replicate (2 * (8 - runs.length)) 0

/-! ## Responses -/

/-- The data of a response in the order of its rule. -/
def Data.bytes : Data → List Byte
  | .empty => []
  | .configured c => paramBytes c
  | .started t c => u32Bytes t ++ paramBytes c
  | .clock t => u32Bytes t
  | .closing n k => numberBytes n ++ numberBytes k
  | .status m op t n entries strays records overflow =>
    [m.code, operationCode op] ++ u32Bytes t ++ u32Bytes n ++ numberBytes entries ++ numberBytes strays ++
      numberBytes records ++ numberBytes overflow
  | .totals sums states c => tallyBytes sums ++ states.flatMap numberBytes ++ numberBytes c
  | .length n => numberBytes n
  | .itemLoaded i st j adopted =>
    numberBytes i ++ [st.code] ++ optionalBytes 1 (fun j => [Judgement.code j]) j ++
      indicationBytes adopted.isSome ++
      (match adopted with
        | some (r, position) => runBytes r ++ numberBytes position
        | none => [])
  | .itemCount n => numberBytes n
  | .freed n => numberBytes n
  | .runClosed r c => runBytes r ++ numberBytes c
  | .run r => runBytes r
  | .released r w st => runBytes r ++ wandBytes w ++ [st.code]
  | .runReport r none => runBytes r ++ [RunState.code .unloaded]
  | .runReport r (some x) => runBytes r ++ [x.record.stage.state.code] ++ runFiguresBytes x
  | .entryInList x n => entryReportBytes x ++ numberBytes n
  | .entry x => entryReportBytes x
  | .stray y n => strayBytes y ++ numberBytes n
  | .strayCount n => numberBytes n
  | .discrepancy d left overflow => discrepancyBytes d ++ numberBytes left ++ numberBytes overflow
  | .queueEmpty overflow => numberBytes 0 ++ numberBytes overflow
  | .located n runs preceding => numberBytes n ++ runListBytes runs ++ precedingBytes preceding
  | .slotFilled w c replaced => wandBytes w ++ preparedBytes c ++ indicationBytes replaced
  | .diverted w depth held c => wandBytes w ++ shortBytes depth ++ optionalBytes 2 runBytes held ++ preparedBytes c
  | .window a b d => bayBytes a ++ bayBytes b ++ [directionCode d]
  | .direction d => [directionCode d]
  | .claimed x => claimReportBytes x
  | .claimedNext i x => shortBytes i.number ++ claimReportBytes x
  | .sighted outcomes last =>
    outcomes.flatMap (fun x => x.1.code :: indicationBytes x.2) ++ numberBytes (last.getD 0)
  | .passEnded r o st n c => runBytes r ++ [o.code, st.code] ++ numberBytes n ++ counterBytes c
  | .passAbandoned r st n c => runBytes r ++ [st.code] ++ numberBytes n ++ counterBytes c
  | .resumed a b d cursor c left =>
    bayBytes a ++ bayBytes b ++ [directionCode d] ++
      optionalBytes 1 (fun i => shortBytes (ShelfIndex.number i)) cursor ++
      optionalBytes 2 runBytes (c.map (·.run)) ++
      (match c with
        | some x => u32Bytes x.serial ++ numberBytes x.passCount ++ optionalBytes 2 numberBytes x.lastPosition
        | none => []) ++
      shortBytes left
  | .shelfReport i r st figures claimant =>
    shortBytes i.number ++ runBytes r ++ [st.code] ++
      (match figures with
        | some x => shelfFiguresBytes x
        | none => []) ++
      (match claimant with
        | some (w, mine) => wandBytes w ++ indicationBytes mine
        | none => [])
  | .bayReport x =>
    shortBytes (WorkingIndex.wholeBay x.side).number ++ bayBytes x.bay ++
      x.runs.flatMap (fun y => runBytes y.1 ++ [RunState.code y.2]) ++ tallyBytes x.sums ++
      numberBytes x.itemCount ++ numberBytes x.completion
  | .masks mask pending => u16Bytes (mask.setWidth 16) ++ u16Bytes (pending.setWidth 16)
  | .lent x withdrawn => circulationBytes x ++ optionalBytes 2 runBytes withdrawn
  | .returned x => circulationBytes x

/-- The frame of a response: kind 0x7F, the request's kind echoed, the condition, the data (R165). -/
def Response.frame (r : Response) : Frame := Frame.make 0x7F#8 (r.kind :: r.condition.code :: r.data.bytes)

/-! ## Notices -/

/-- The frame of a prompt (R169). -/
def Prompt.frame : Prompt → Frame
  | .pull tag position j =>
    Frame.make (NoticeKind.code .pull)
      (tagBytes tag ++ numberBytes position ++ optionalBytes 1 (fun j => [Judgement.code j]) j)
  | .gap a b => Frame.make (NoticeKind.code .gap) (numberBytes a ++ numberBytes b)

/-- The frame of a held notice (R169). -/
def HeldNotice.frame : HeldNotice → Frame
  | .diverted c => Frame.make (NoticeKind.code .diverted) (preparedBytes c)
  | .released r y => Frame.make (NoticeKind.code .released) (runBytes r ++ [y.code])
  | .mode m => Frame.make (NoticeKind.code .mode) [m.code]
  | .passDone r o => Frame.make (NoticeKind.code .passDone) (runBytes r ++ [o.code])
  | .queueFull => Frame.make (NoticeKind.code .queueFull) []
  | .strayFull => Frame.make (NoticeKind.code .strayFull) []
  | .opDone op => Frame.make (NoticeKind.code .opDone) [operationCode (some op)]

/-- The frame that a port's transmit line is sending (R149). -/
def LinkPort.sendingFrame (q : LinkPort) : Option Frame :=
  match q.line with
  | .idle => none
  | .response => q.sendingResponse.map Response.frame
  | .prompt n => some n.frame
  | .held n => some n.frame

end Sys2Proof.Machine
end

