-- ==== Sys2Proof/Safety.lean ====
section
/-! DEFINITION. The terms in which statements about the part are made: when a port can take a request at once, what a
request that has arrived and been answered leaves on its port, and the invariants of the part's records. -/
namespace Sys2Proof.Machine

/-! ## Taking events and requests -/

/-- Events act as their rules say: RST_N is high, and no claim has run out and awaits its expiry (R55, R172). -/
abbrev State.Quiet (s : State) : Prop := s.pins.resetLow = false ∧ s.expiriesDue = []

/-- A request that arrives on the port now is handled at once: the part is quiet, bytes reach the port, its receive side
hunts, no earlier frame waits to be handled, the buffer has room, and no device reset is awaited there (R161, R167,
R168). -/
abbrev State.Ready (s : State) (p : Port) : Prop :=
  s.Quiet ∧ s.canReceive p = true ∧ (s.port p).receiver = .hunting ∧ (s.port p).next? = none ∧
    (s.port p).buffer.length < Config.bufferCapacity ∧ s.blocked p = false

/-- The slot that a request's frame takes when it joins a receive buffer (R168). -/
def arrivalSlot (k : RequestKind) (payload : List Byte) : Slot :=
  { frame := Frame.make k.code payload, buffered := true, phase := .unhandled }

/-- The part once the frame of a request stands at the end of its port's buffer. -/
def State.arrived (s : State) (c : Instr) : State :=
  match c.request with
  | some (p, k, payload) => s.updatePort p fun q => { q with inbox := q.inbox ++ [arrivalSlot k payload] }
  | none => s

/-- The part once a request is answered: the response stands in the frame's slot, and every idle line chooses
(R149, R165). -/
def State.responded (s : State) (c : Instr) (condition : Condition) (data : Data) : State :=
  match c.request with
  | some (p, k, _) =>
    (s.updatePort p (·.respond { kind := k.code, condition := condition, data := data })).kick
  | none => s

/-- The modes in which no operation is in flight (R152, R160). -/
abbrev Mode.Settled (m : Mode) : Prop := m = .halted ∨ m = .counting ∨ m = .paused ∨ m = .closed

/-- The modes in which runs are loaded and their records written (R152). -/
abbrev Mode.Loadable (m : Mode) : Prop := m = .halted ∨ m = .counting ∨ m = .paused

/-- The modes of an opened count (R152). -/
abbrev Mode.Opened (m : Mode) : Prop := m = .counting ∨ m = .paused

/-- A mode entered, with the notice MODE raised on all six ports (R152). -/
def State.withMode (s : State) (m : Mode) : State :=
  { s with mode := m, ports := s.ports.map (·.raiseHeld (.mode m)) }

/-! ## Lines -/

/-- No line is idle while it has a frame to send (R149). -/
def State.LinesBusy (s : State) : Prop := s.kick = s

/-! ## Capacities (1.5, R20, R21, R104, R126, R141, R147, R168) -/

/-- One run's record and list within their bounds. -/
def LoadedRun.Bounded (x : LoadedRun) : Prop :=
  Config.lengthMin ≤ x.length ∧ x.length ≤ Config.lengthMax ∧ x.shelf.entries.length ≤ Config.runCapacity

/-- One port's queues within their bounds, and every frame that a full buffer turned away already answered. -/
structure LinkPort.Bounded (q : LinkPort) : Prop where
  prompts : q.prompts.length ≤ Config.promptCapacity
  buffer : q.buffer.length ≤ Config.bufferCapacity
  busy : q.busyWaiting.length ≤ Config.bufferCapacity
  answered : ∀ x ∈ q.inbox, x.buffered = false → x.phase ≠ .unhandled

/-- Every collection of the part within its capacity. -/
structure State.Bounded (s : State) : Prop where
  pool : s.pool.length ≤ Config.poolPlaces
  runs : ∀ x ∈ s.runs, x.2.Bounded
  strays : s.strays.length ≤ Config.strayCapacity
  records : s.discrepancies.length ≤ Config.queueCapacity
  overflow : s.overflow ≤ Config.counterMax
  depths : ∀ w, (s.wand w).stack.length ≤ Config.stackCapacity
  ports : ∀ p, (s.port p).Bounded

/-! ## Canonical form -/

/-- The pool and the Run Table list their keys in strictly rising order, so equal contents are equal data. -/
def State.Canonical (s : State) : Prop := tableSorted s.pool = true ∧ tableSorted s.runs = true

/-! ## The Item Register's account (R20, R21, R22, R33) -/

/-- The entries of a run that hold a status, counted over the pool. -/
def State.statusCount (s : State) (r : RunNo) (st : Status) : Nat :=
  s.pool.countP fun x => decide (x.2.homeRun = r ∧ x.2.status = st)

/-- The keys of a run's entries, in list order. -/
def State.keysOf (s : State) (x : LoadedRun) : List ShelfKey := (x.shelf.entries.filterMap s.entry).map (·.key)

/-- The run's list is the indices of its own entries, none twice; its tallies count their statuses; and its keys lie
within its limits and never sort before their predecessors. -/
structure State.RunAccount (s : State) (r : RunNo) (x : LoadedRun) : Prop where
  once : x.shelf.entries.Nodup
  own : ∀ i, i ∈ x.shelf.entries ↔ ∃ e, s.entry i = some e ∧ e.homeRun = r
  tallies : ∀ st, x.shelf.tallies.get st = s.statusCount r st
  limits : ∀ k ∈ s.keysOf x, betweenLimits k x.lower x.upper = .eq
  order : (s.keysOf x).Pairwise fun a b => compareKeys b a ≠ .lt

/-- The Item Register accounts for every item: each entry has a loaded home run, no tag is held twice, and each loaded
run's list and tallies agree with the pool. -/
structure State.Accounted (s : State) : Prop where
  canonical : s.Canonical
  homes : ∀ x ∈ s.pool, (s.run x.2.homeRun).isSome = true
  tags : (s.pool.map fun x => x.2.tag).Nodup
  runs : ∀ r x, s.run r = some x → s.RunAccount r x

/-! ## The Stray List beside the pool (R22, R27, R104) -/

/-- The Stray List holds one record for a tag, and none for a tag that an entry holds. -/
structure State.StraysApart (s : State) : Prop where
  once : (s.strays.map fun y => y.tag).Nodup
  unlisted : ∀ y ∈ s.strays, ∀ x ∈ s.pool, x.2.tag ≠ y.tag

/-! ## Passes in flight and the entries they name (R51, R88, R96) -/

/-- The pending entry and the anchor of a pass are entries of its own run that have been read, and the last reading of the
pending entry was made in that pass. -/
structure State.PassesAgree (s : State) : Prop where
  pendingRead : ∀ r k i, s.claim? r = some k → k.pass.pendingEntry = some i →
    ∃ e l, s.entry i = some e ∧ e.homeRun = r ∧ e.lastSighting = some l ∧ l.serial = k.pass.serial
  anchorRead : ∀ r k i, s.claim? r = some k → k.pass.anchor = some i →
    ∃ e l, s.entry i = some e ∧ e.homeRun = r ∧ e.lastSighting = some l

/-! ## Pass counts and the configuration (R42, R44, R155) -/

/-- Each configuration parameter within its range (R155). -/
def paramsInRange (c : Config.Params) : Prop :=
  (10 ≤ c.debounceSpan ∧ c.debounceSpan ≤ 100) ∧ (60 ≤ c.gapLimit ∧ c.gapLimit ≤ 400) ∧
    c.backtrackTolerance ≤ 200 ∧ (10 ≤ c.claimInterval ∧ c.claimInterval ≤ 600) ∧ 1 ≤ c.passLimit ∧ c.passLimit ≤ 7

/-- No run has had more passes than the pass limit; a run LOADING or READY has had none, and one in RESCAN fewer than the
limit; before the count is opened no run has had a pass, and a wipe in flight has left no run. -/
structure State.PassCountsAgree (s : State) : Prop where
  params : paramsInRange s.config
  limit : ∀ r x, s.run r = some x → x.passCount ≤ s.config.passLimit
  fresh : ∀ r x, s.run r = some x → x.stage = .loading ∨ x.stage = .ready → x.passCount = 0
  rescan : ∀ r x, s.run r = some x → x.stage = .rescan → x.passCount < s.config.passLimit
  halted : s.mode = .halted → ∀ r x, s.run r = some x → x.passCount = 0
  wiping : s.mode = .wiping → s.runs = []

/-! ## Claims and contexts (R44, R50) -/

/-- A run is CLAIMED exactly when the current context of its claimant names it, HELD exactly when one of its claimant's
stacked contexts does, and no run is named twice. -/
structure State.ClaimsAgree (s : State) : Prop where
  claimed : ∀ r w, (s.wand w).current.claimedRun = some r ↔
    ∃ x c, s.run r = some x ∧ x.stage = .claimed c ∧ c.claimant = w
  held : ∀ r w, (∃ k ∈ (s.wand w).stack, k.claimedRun = some r) ↔
    ∃ x c, s.run r = some x ∧ x.stage = .held c ∧ c.claimant = w
  once : ∀ w, (s.wand w).claims.Nodup

/-! ## Section Control (R151, R162) -/

/-- The operation in flight that a mode implies. -/
def Mode.operation : Mode → Option Operation
  | .closing => some .close
  | .wiping => some .wipe
  | .halted => none
  | .counting => none
  | .paused => none
  | .closed => none

/-- The operation in flight agrees with the mode, and no claim stands outside COUNTING and PAUSED. -/
structure State.ModeAgrees (s : State) : Prop where
  operation : s.operation = s.mode.operation
  claims : (∃ r, (s.claim? r).isSome = true) → s.mode = .counting ∨ s.mode = .paused

/-- The mode changes of R152 that no reset makes. -/
def modeChange (c : Instr) (old new : Mode) : Prop :=
  match c with
  | .start _ => old = .halted ∧ new = .counting
  | .pause _ => old = .counting ∧ new = .paused
  | .continueCount _ => old = .paused ∧ new = .counting
  | .closeSection _ => (old = .counting ∨ old = .paused) ∧ new = .closing
  | .closeCompletion => old = .closing ∧ new = .closed
  | .wipe _ => (old = .halted ∨ old = .closed) ∧ new = .wiping
  | .wipeCompletion => old = .wiping ∧ new = .halted
  | _ => False

/-- The commands that can give the part its power-on values (R161, R172). -/
def resetsThePart : Instr → Bool
  | .deviceResetEffect => true
  | .transmitFrameEnd .lp5 => true
  | .portReset .lp5 => true
  | .powerOn => true
  | .externalReset => true
  | .resetRelease => true
  | _ => false

/-- The command resets no more than a port: it is none of those that can reset the part, or one of them where it has
nothing to take effect (R161, R172). -/
def leavesThePart (c : Instr) (s : State) : Prop :=
  resetsThePart c = false ∨
    c = .resetRelease ∧ s.pins.resetLow = false ∨
    c = .portReset .lp5 ∧ s.resetScheduled = false ∨
    (c = .deviceResetEffect ∨ c = .transmitFrameEnd .lp5) ∧ s.Quiet ∧ s.sendsResetResponse = false

end Sys2Proof.Machine
end

