-- ==== Sys2Proof/Certificates/Slice0/Obligations.lean ====
section
/-! DEFINITION. The statements about the SR-280, for the provers. Where a statement speaks of a request, `s.Ready p` says
that port `p` takes it at once, `s.arrived c` is the part with the request's frame in the buffer, and
`(…).responded c condition data` puts its response behind that frame and lets the idle lines choose; all that such an
equation does not write is as it was in `s`. -/

open Sys2Proof Sys2Proof.Machine

/-! ## The machine -/

/-- A step takes the command at the front of the queue and executes it on the part with the queue's rest; with nothing
queued it leaves the part as it is. The queue is the model's own: notes/assumptions/1.md. -/
def Obligations.StepTakesTheFrontCommand : Prop :=
  (∀ (c : Instr) (rest : List Instr) (s : State),
    step { s with pending := c :: rest } = exec c { s with pending := rest }) ∧
  ∀ s : State, step { s with pending := [] } = .next { s with pending := [] }

/-- Every command, well formed or not and from every state, reached or not, answers a next state, and leaves the queue to
`step`. That a command has an effect in states no run reaches, and that none touches the queue, is the model's choice:
notes/assumptions/13.md and 1.md. -/
def Obligations.EveryCommandAnswersAndLeavesTheQueue : Prop :=
  ∀ (c : Instr) (s : State), ∃ t, exec c s = .next t ∧ t.pending = s.pending

/-! ## Roles, modes and answers -/

/-- 11.1: the request set of each role, and the refusal ROLE of a request outside it, in every mode, which changes
nothing but adds its answer. -/
def Obligations.RolesAdmitTheirRequestSets : Prop :=
  (∀ k : RequestKind, k.inRole .wand = true ↔ k ∈ [RequestKind.setWindow, .setDirection, .claim, .claimNext, .sight,
    .runEnd, .runAbandon, .resume, .queryRun, .queryItem, .setMask]) ∧
  (∀ k : RequestKind, k.inRole .circulation = true ↔ k ∈ [RequestKind.loan, .returnItem, .queryItem, .setMask]) ∧
  (∀ k : RequestKind, k.inRole .supervisor = true ↔ k ∈ [RequestKind.configure, .start, .pause, .continueCount,
    .closeSection, .wipe, .deviceReset, .status, .totals, .loadRun, .loadItem, .loadDone, .unloadRun, .closeRun,
    .resetPasses, .forceRelease, .setDivert, .divert, .readRun, .readEntry, .queryItem, .readStray, .readDiscrepancy,
    .locate, .setMask]) ∧
  ∀ (c : Instr) (p : Port) (k : RequestKind) (payload : List Byte) (s : State),
    c.request = some (p, k, payload) → c.wellFormed = true → s.Ready p → k.inRole p.role = false →
      exec c s = .next ((s.arrived c).responded c .role .empty)

/-- 10.1, 10.6: the requests each mode takes, and the refusal MODE or the answer BUSY of a request it does not take,
which changes nothing but adds its answer. -/
def Obligations.ModesAdmitTheirRequests : Prop :=
  (∀ k : RequestKind, k.modeTest .halted = if k ∈ [RequestKind.pause, .continueCount, .closeSection, .claim, .claimNext,
    .sight, .runEnd, .runAbandon, .forceRelease, .loan, .returnItem, .divert, .resume] then some .mode else none) ∧
  (∀ k : RequestKind, k.modeTest .counting = if k ∈ [RequestKind.start, .configure, .continueCount, .wipe]
    then some .mode else none) ∧
  (∀ k : RequestKind, k.modeTest .paused = if k ∈ [RequestKind.start, .configure, .pause, .wipe, .claim, .claimNext,
    .sight] then some .mode else none) ∧
  (∀ k : RequestKind, k.modeTest .closed = if k ∈ [RequestKind.start, .configure, .pause, .continueCount, .closeSection,
    .loadRun, .loadItem, .loadDone, .unloadRun, .closeRun, .resetPasses, .claim, .claimNext, .sight, .runEnd,
    .runAbandon, .forceRelease, .loan, .returnItem, .divert, .resume] then some .mode else none) ∧
  (∀ (k : RequestKind) (m : Mode), m = .closing ∨ m = .wiping →
    k.modeTest m = if k = .status ∨ k = .deviceReset then none else some .busy) ∧
  ∀ (c : Instr) (p : Port) (k : RequestKind) (payload : List Byte) (s : State) (x : Condition),
    c.request = some (p, k, payload) → c.wellFormed = true → s.Ready p → k.inRole p.role = true →
      k.modeTest s.mode = some x → exec c s = .next ((s.arrived c).responded c x .empty)

/-- 1.2, 11.3: a request that is handled receives exactly one response, with its kind echoed; its frame joins the end of
the buffer and is handled there, and no other frame of the port is touched. On a port with nothing else in hand and an
idle line, that response goes on the line. -/
def Obligations.EachHandledRequestIsAnsweredOnce : Prop :=
  ∀ (c : Instr) (p : Port) (k : RequestKind) (payload : List Byte) (s : State),
    c.request = some (p, k, payload) → c.wellFormed = true → s.Ready p →
      ∃ t r, exec c s = .next t ∧
        (t.port p).inbox.map (·.frame) = (s.port p).inbox.map (·.frame) ++ [Frame.make k.code payload] ∧
        (t.port p).next? = none ∧ (t.port p).lastResponse = some r ∧ r.kind = k.code ∧
        ((s.port p).inbox = [] → (s.port p).line = .idle → (t.port p).sendingFrame = some r.frame)

/-- 11.3: a request is the same whether its frame is first received and then handled, or arrives as it is handled. That
a request command may bring its own frame is the model's choice: notes/assumptions/2.md. -/
def Obligations.ReceivingThenHandlingIsTheRequest : Prop :=
  ∀ (c : Instr) (p : Port) (k : RequestKind) (payload : List Byte) (s : State),
    c.request = some (p, k, payload) → c.wellFormed = true → s.Ready p → s.LinesBusy →
      ∃ t, exec (.frameReceived p (Frame.make k.code payload).bytes) s = .next t ∧ exec c t = exec c s

/-! ## The receive side -/

/-- 11.3: the bytes of a whole frame that reach a hunting receive side offer that frame: it joins a buffer that holds
fewer than 2, else is answered BUSY without its check being tested while fewer than 2 such answers wait, else is
discarded. Bytes that do not reach the port change nothing. Which BUSY answers wait, the one on the line not among them,
is the model's reading: notes/assumptions/4.md. A side that has collected part of a frame is covered by
`ReceiveSideHuntsAndCollects`. -/
def Obligations.WholeFrameIsOfferedToTheBuffer : Prop :=
  ∀ (p : Port) (f : Frame) (s : State), f.payload.length + 1 ≤ 250 → s.Quiet →
    (s.canReceive p = false → exec (.frameReceived p f.bytes) s = .next s.kick) ∧
    (s.canReceive p = true → (s.port p).receiver = .hunting →
      ((s.port p).buffer.length < 2 →
        exec (.frameReceived p f.bytes) s = .next (s.updatePort p fun q =>
          { q with inbox := q.inbox ++ [{ frame := f, buffered := true, phase := .unhandled }] }).kick) ∧
      (2 ≤ (s.port p).buffer.length → (s.port p).busyWaiting.length < 2 →
        exec (.frameReceived p f.bytes) s = .next (s.updatePort p fun q =>
          { q with inbox := q.inbox ++ [{ frame := f, buffered := false,
                                          phase := .waiting { kind := f.kind, condition := .busy, data := .empty } }]
          }).kick) ∧
      (2 ≤ (s.port p).buffer.length → 2 ≤ (s.port p).busyWaiting.length →
        exec (.frameReceived p f.bytes) s = .next s.kick))

/-- 11.3: a start byte begins a frame while the receive side hunts, and every other byte is then discarded; 0xA5 is the
length 165 after a start byte, and data in the middle of a frame; an invalid length byte ends the frame and is itself
examined as a possible start; the last bytes of a frame complete it, 0xA5 among them, as if the frame had come whole; a
frame left incomplete for 5 ms is dropped. No other part of the state changes. That a byte event is taken as the side
stands, that FRAME_RECEIVED brings the bytes not yet collected, and that FRAME_TIMEOUT asks for no incomplete frame is the
model's choice: notes/assumptions/15.md. -/
def Obligations.ReceiveSideHuntsAndCollects : Prop :=
  ∀ (p : Port) (s : State), s.Quiet →
    (s.canReceive p = true → (s.port p).receiver = .hunting →
      exec (.startByte p) s = .next (s.updatePort p fun q => { q with receiver := .collecting [0xA5#8] }).kick ∧
      (∀ b : Byte, b ≠ 0xA5#8 → exec (.frameLengthInvalid p b) s = .next s.kick) ∧
      ∀ (b : Byte) (bytes : List Byte), b ≠ 0xA5#8 →
        exec (.frameReceived p (b :: bytes)) s = exec (.frameReceived p bytes) s) ∧
    (∀ start : Byte, s.canReceive p = true → (s.port p).receiver = .collecting [start] →
      exec (.startByte p) s = .next
        (s.updatePort p fun q => { q with receiver := .collecting [start, 0xA5#8] }).kick ∧
      ∀ n : Byte, n.toNat = 0 ∨ 250 < n.toNat → exec (.frameLengthInvalid p n) s = .next (s.updatePort p fun q =>
        { q with receiver := .hunting }).kick) ∧
    (∀ (start n : Byte) (got : List Byte), s.canReceive p = true →
      (s.port p).receiver = .collecting (start :: n :: got) → got.length + 1 < n.toNat + 2 →
      exec (.startByte p) s = .next
        (s.updatePort p fun q => { q with receiver := .collecting (start :: n :: (got ++ [0xA5#8])) }).kick) ∧
    (∀ (f : Frame) (got rest : List Byte), f.payload.length + 1 ≤ 250 → f.bytes = got ++ rest → rest ≠ [] →
      s.canReceive p = true → (s.port p).receiver = .collecting got →
      let whole := exec (.frameReceived p f.bytes) (s.updatePort p fun q => { q with receiver := .hunting })
      exec (.frameReceived p f.bytes) s = whole ∧ (rest = [0xA5#8] → exec (.startByte p) s = whole)) ∧
    exec (.frameTimeout p) s = .next (s.updatePort p fun q => { q with receiver := .hunting }).kick

/-- 11.3: the three frame checks in their order, for the frame that its port handles next: a wrong check is answered
FRAME with the kind 0 echoed, an unknown kind UNKNOWN, and a wrong length LENGTH. The frame is acted on in no other
way. -/
def Obligations.FailedFrameChecksAreAnswered : Prop :=
  ∀ (p : Port) (f : Frame) (s : State), s.Quiet → s.blocked p = false → (s.port p).next? = some f →
    (crc f.checked ≠ f.check → exec (.frameRejected p) s = .next
      (s.updatePort p (·.respond { kind := 0, condition := .frame, data := .empty })).kick) ∧
    (crc f.checked = f.check → (∀ k : RequestKind, k.code ≠ f.kind) → exec (.frameRejected p) s = .next
      (s.updatePort p (·.respond { kind := f.kind, condition := .unknown, data := .empty })).kick) ∧
    ∀ k : RequestKind, crc f.checked = f.check → k.code = f.kind → k.lengthOk f.payload.length = false →
      exec (.frameRejected p) s = .next
        (s.updatePort p (·.respond { kind := f.kind, condition := .length, data := .empty })).kick

/-! ## The transmit lines, breaks and resets -/

/-- 9.3.4: a line sends its frame to the end, and the frame whose response this was leaves the buffer; an idle line
chooses the earliest waiting response, else the prompt at the head of the queue, else the first pending and open held
notice in the order of the kinds, whose flag it clears. On LP5 the end of the response to a DEVICE_RESET is left to
`DeviceResetTakesEffectAfterItsResponse`. The order of a BUSY answer and the other waiting responses is the model's
reading, notes/assumptions/4.md, and that TRANSMIT_FRAME_END of an idle line ends nothing is its choice,
notes/assumptions/15.md. -/
def Obligations.TransmitLineEndsItsFrameAndChooses : Prop :=
  (∀ (p : Port) (s : State), s.Quiet → (p = .lp5 → s.sendsResetResponse = false) →
    ((s.port p).line = .response → exec (.transmitFrameEnd p) s = .next (s.updatePort p fun q =>
      { q with line := .idle, inbox := removeSending q.inbox }).kick) ∧
    ((s.port p).line ≠ .response → exec (.transmitFrameEnd p) s =
      .next (s.updatePort p fun q => { q with line := .idle }).kick)) ∧
  ∀ q : LinkPort, (q.line ≠ .idle → q.choose = q) ∧ (q.line = .idle →
    (∀ (before after : List Slot) (x : Slot) (r : Response), q.inbox = before ++ x :: after →
      before.all (fun y => !y.phase.isWaiting) = true → x.phase = .waiting r →
      q.choose = { q with inbox := before ++ { x with phase := .sending r } :: after, line := .response }) ∧
    (q.inbox.all (fun y => !y.phase.isWaiting) = true →
      (∀ (n : Prompt) (rest : List Prompt), q.prompts = n :: rest →
        q.choose = { q with prompts := rest, line := .prompt n }) ∧
      (q.prompts = [] →
        (∀ (before after : List NoticeKind) (k : NoticeKind) (n : HeldNotice),
          [NoticeKind.diverted, .released, .mode, .passDone, .queueFull, .strayFull, .opDone] =
            before ++ k :: after →
          (∀ j ∈ before, q.held.get? j = none ∨ masks q.mask j = true) → q.held.get? k = some n →
          masks q.mask k = false → q.choose = { q with held := q.held.drop k, line := .held n }) ∧
        ((∀ k, q.held.get? k = none ∨ masks q.mask k = true) → q.choose = q))))

/-- 11.5, 9.3.4, 8.6: a break resets its port once, however long it lasts, and its end lets the port hunt from the next
byte. The port's receive side, buffer, line, mask, prompts and held notices take their reset values; a wand port's
passes are abandoned, the current context's first and then the stacked ones from the top, and its context store takes
its reset values; nothing else changes. That a PORT_RESET within one break and the end of no break change nothing but the
level, and that the level is kept apart from the port, is the model's reading: notes/assumptions/9.md. LP5 awaiting a
device reset is left to `DeviceResetTakesEffectAfterItsResponse`. -/
def Obligations.BreakResetsItsPort : Prop :=
  ∀ (p : Port) (s : State), s.Quiet →
    (s.pins.breakLow.get p = true → exec (.portReset p) s = .next s.kick) ∧
    (s.pins.breakLow.get p = false → s.blocked p = false →
      (∀ w, p.wand? = some w → exec (.portReset p) s = .next
        ((((s.wand w).current :: (s.wand w).stack).filterMap (·.claimedRun)).foldl
          (fun t r => t.abandon r .portReset)
          ((s.setBreak p true).updatePort p fun _ => .default) |>.setWand w .default).kick) ∧
      (p.wand? = none → exec (.portReset p) s =
        .next ((s.setBreak p true).updatePort p fun _ => .default).kick)) ∧
    exec (.breakEnd p) s = .next (s.setBreak p false).kick

/-- 11.6: POWER_ON, EXTERNAL_RESET and RESET_RELEASE give the part its power-on values, whatever it did, and while RST_N is
low no command takes it from them: a break moves the level of its line alone, and every other request and event, but the
three that set the reset itself, changes nothing. RECEIVE_ENABLE lets the part receive, 2 ms after the start, with every
receive side hunting. The queue and the levels of the receive lines are outside the part, notes/assumptions/9.md; that
RESET_RELEASE with RST_N high and RECEIVE_ENABLE of a part that receives change nothing of their own is the model's choice,
notes/assumptions/15.md. -/
def Obligations.ResetsGivePowerOnValues : Prop :=
  ∀ s : State,
    exec .powerOn s = .next { State.reset with pending := s.pending, pins := s.pins } ∧
    exec .externalReset s =
      .next { State.reset with pending := s.pending, pins := ⟨true, s.pins.breakLow⟩ } ∧
    (s.pins.resetLow = true → exec .resetRelease s =
      .next { State.reset with pending := s.pending, pins := ⟨false, s.pins.breakLow⟩ }) ∧
    (s.pins.resetLow = false → exec .resetRelease s = .next s) ∧
    (s.Quiet → s.receiving = false → exec .receiveEnable s =
      .next { s with receiving := true, ports := s.ports.map fun q : LinkPort => { q with receiver := .hunting } }.kick) ∧
    (s.Quiet → s.receiving = true → exec .receiveEnable s = .next s.kick) ∧
    (s.pins.resetLow = true →
      (∀ p : Port,
        exec (.portReset p) s = .next { s with pins := ⟨true, s.pins.breakLow.set true p⟩ } ∧
        exec (.breakEnd p) s = .next { s with pins := ⟨true, s.pins.breakLow.set false p⟩ }) ∧
      ∀ c : Instr, c ∉ [Instr.powerOn, .externalReset, .resetRelease] → (∀ p, c ≠ .portReset p ∧ c ≠ .breakEnd p) →
        exec c s = .next s) ∧
    ∀ (c : Instr) (t : State), s = { State.reset with pending := s.pending, pins := s.pins } →
      s.pins.resetLow = true → c ≠ .resetRelease → exec c s = .next t →
        t = { State.reset with pending := s.pending, pins := t.pins } ∧ t.pins.resetLow = true

/-- 10.7: DEVICE_RESET is answered OK in every mode and changes nothing until the last byte of that response has left
LP5; then the whole part takes its power-on values. A port reset of LP5 meanwhile has the same effect. Until then LP5
handles no frame: the frame of a request on LP5 at most arrives. That the effect waits for the response to be on the line,
and leaves the pins and the time since the start, is the model's reading: notes/assumptions/6.md. -/
def Obligations.DeviceResetTakesEffectAfterItsResponse : Prop :=
  (∀ s : State, s.Ready .lp5 →
    let c := Instr.deviceReset .lp5
    exec c s = .next ({ s.arrived c with resetScheduled := true }.responded c .ok .empty)) ∧
  ∀ s : State, s.Quiet →
    (s.sendsResetResponse = true →
      exec .deviceResetEffect s =
        .next { State.reset with pending := s.pending, pins := s.pins, receiving := s.receiving } ∧
      exec (.transmitFrameEnd .lp5) s =
        .next { State.reset with pending := s.pending, pins := s.pins, receiving := s.receiving }) ∧
    (s.sendsResetResponse = false → exec .deviceResetEffect s = .next s.kick) ∧
    (s.resetScheduled = true → s.pins.breakLow.lp5 = false →
      exec (.portReset .lp5) s = .next
        { State.reset with pending := s.pending, pins := ⟨false, s.pins.breakLow.set true .lp5⟩,
                           receiving := s.receiving }) ∧
    (s.resetScheduled = true →
      exec (.frameRejected .lp5) s = .next s.kick ∧
      ∀ (c : Instr) (k : RequestKind) (payload : List Byte), c.request = some (.lp5, k, payload) →
        let f := Frame.make k.code payload
        ((s.port .lp5).next? = some f → exec c s = .next s.kick) ∧
        ((s.port .lp5).next? ≠ some f → exec c s = exec (.frameReceived .lp5 f.bytes) s))

/-! ## Section Control -/

/-- 10.3: CONFIGURE in HALTED writes all five parameters, each clamped to its range, and answers with the values in
force. -/
def Obligations.ConfigureWritesClampedParameters : Prop :=
  ∀ (debounce gap backtrack interval passes : U16) (s : State), s.Ready .lp5 → s.mode = .halted →
    let c := Instr.configure .lp5 debounce gap backtrack interval passes
    let params : Config.Params :=
      { debounceSpan := max 10 (min 100 debounce.toNat)
        gapLimit := max 60 (min 400 gap.toNat)
        backtrackTolerance := max 0 (min 200 backtrack.toNat)
        claimInterval := max 10 (min 600 interval.toNat)
        passLimit := max 1 (min 7 passes.toNat) }
    exec c s = .next ({ s.arrived c with config := params }.responded c .ok (.configured params))

/-- 10.2: START, PAUSE and CONTINUE change the mode, raise MODE on all six ports and answer with the section clock
(START with the parameters in force as well). They change nothing else: the claim timers keep their values. -/
def Obligations.StartPauseContinueChangeTheMode : Prop :=
  ∀ s : State, s.Ready .lp5 →
    (s.mode = .halted → exec (.start .lp5) s = .next
      (((s.arrived (.start .lp5)).withMode .counting).responded (.start .lp5) .ok (.started s.clock s.config))) ∧
    (s.mode = .counting → exec (.pause .lp5) s = .next
      (((s.arrived (.pause .lp5)).withMode .paused).responded (.pause .lp5) .ok (.clock s.clock))) ∧
    (s.mode = .paused → exec (.continueCount .lp5) s = .next
      (((s.arrived (.continueCount .lp5)).withMode .counting).responded (.continueCount .lp5) .ok (.clock s.clock)))

/-- 10.4, 3.4: an advance of the clock counts one second in COUNTING and PAUSED, wrapping to 0, and none in the other
modes; in COUNTING the timer of every CLAIMED run falls by one, and no HELD run's does. Nothing else changes. That a run
whose timer reaches 0 stays CLAIMED until the command after the advance, which takes its expiry first, is the model's
reading: notes/assumptions/5.md. -/
def Obligations.ClockAdvanceCountsAndRunsTimers : Prop :=
  ∀ s : State, s.Quiet →
    (s.mode = .counting → ∃ t : State, exec .sectionClockAdvance s = .next t.kick ∧
      t = { s with clock := s.clock + 1, runs := t.runs } ∧ t.runs.map Prod.fst = s.runs.map Prod.fst ∧
      ∀ r x, s.run r = some x →
        (∀ c, x.stage = .claimed c → t.run r = some { x with stage := .claimed { c with timer := c.timer - 1 } }) ∧
        ((∀ c, x.stage ≠ .claimed c) → t.run r = some x)) ∧
    (s.mode = .paused → exec .sectionClockAdvance s = .next { s with clock := s.clock + 1 }.kick) ∧
    (s.mode ≠ .counting → s.mode ≠ .paused → exec .sectionClockAdvance s = .next s.kick)

/-- 3.4: the claims whose running timers stand at 0 expire, in ascending order of run number; each pass is abandoned
with the reason EXPIRED and RELEASED is raised on its claimant's port. Afterwards none of them is CLAIMED, and none is
left to expire. A claim whose timer does not stand at 0, a HELD run and a run in PAUSED do not expire. Every other request
and event that finds an expiry due has the effect that it has once the due expiries are taken. That one CLAIM_EXPIRY takes
all that are due, their notices becoming waiting together, and that other commands take them first, is the model's reading:
notes/assumptions/5.md. -/
def Obligations.ClaimsThatRanOutExpire : Prop :=
  ∀ s : State, s.pins.resetLow = false → s.Canonical → s.expiriesDue ≠ [] →
    (∀ r, r ∈ s.expiriesDue ↔ s.mode = .counting ∧
      ∃ x c, s.run r = some x ∧ x.stage = .claimed c ∧ c.timer = 0) ∧
    s.expiriesDue.Pairwise (· < ·) ∧
    exec .claimExpiry s = .next
      (s.expiriesDue.foldl (fun t r => t.releaseClaim r .expired) s).kick ∧
    (∀ t, exec .claimExpiry s = .next t → t.expiriesDue = []) ∧
    ∀ (c : Instr) (t : State), c ≠ .resetRelease → exec .claimExpiry s = .next t → exec c s = exec c t

/-- 10.5: CLOSE_SECTION is answered BUSY while a run is CLAIMED or HELD, refused STATE while one is LOADING, and else
begins the close, answering with the EXPECTED entries and the loaded runs not CLOSED. -/
def Obligations.CloseSectionBeginsTheClose : Prop :=
  ∀ s : State, s.Ready .lp5 → s.mode.Opened →
    let c := Instr.closeSection .lp5
    ((∃ x ∈ s.runs, x.2.stage.state = .claimed ∨ x.2.stage.state = .held) →
      exec c s = .next ((s.arrived c).responded c .busy .empty)) ∧
    ((∀ x ∈ s.runs, x.2.stage.state ≠ .claimed ∧ x.2.stage.state ≠ .held) →
      ((∃ x ∈ s.runs, x.2.stage.state = .loading) →
        exec c s = .next ((s.arrived c).responded c .state .empty)) ∧
      ((∀ x ∈ s.runs, x.2.stage.state ≠ .loading) →
        exec c s = .next ({ (s.arrived c).withMode .closing with operation := some .close }.responded c .ok
          (.closing (s.pool.countP fun x : Nat × Entry => x.2.status == Status.expected)
            (s.runs.countP fun x : RunNo × LoadedRun => x.2.stage.state != RunState.closed)))))

/-- 10.5: at the completion of the close the mode is CLOSED and no operation in flight, MODE is raised on all ports and
OP_DONE on LP5, but OP_DONE is not raised where a DEVICE_RESET was taken during the close and awaits its effect; every
EXPECTED entry is MISSING and every other entry as it was, every loaded run is CLOSED with its record kept and its EXPECTED
tally moved to MISSING; nothing else changes. That these effects appear at the completion is the model's reading:
notes/assumptions/11.md. That all but OP_DONE appear also where a DEVICE_RESET awaits its effect, and that CLOSE_COMPLETION
in another mode changes nothing of its own, is its choice: notes/assumptions/18.md and 15.md. -/
def Obligations.CloseCompletionClosesTheSection : Prop :=
  ∀ s : State, s.Quiet →
    (s.mode = .closing →
      let closed : State := { s with
        operation := none
        pool := s.pool.map fun x : Nat × Entry =>
          (x.1, if x.2.status = Status.expected then { x.2 with status := .missing } else x.2)
        runs := s.runs.map fun x : RunNo × LoadedRun =>
          (x.1, { x.2 with
            stage := .closed
            shelf := { x.2.shelf with
              tallies := { x.2.shelf.tallies with
                expected := 0, missing := x.2.shelf.tallies.missing + x.2.shelf.tallies.expected } } }) }.withMode .closed
      (s.resetScheduled = false → exec .closeCompletion s = .next
        (closed.updatePort .lp5 fun q => q.raiseHeld (.opDone .close)).kick) ∧
      (s.resetScheduled = true → exec .closeCompletion s = .next closed.kick)) ∧
    (s.mode ≠ .closing → exec .closeCompletion s = .next s.kick)

/-- 10.6: WIPE in HALTED or CLOSED empties the register, the Run Table, the Stray List, the Discrepancy Queue and the
contexts, keeping windows, directions and the configuration; its completion makes the mode HALTED and raises MODE and
OP_DONE, but not OP_DONE where a DEVICE_RESET was taken during the wipe and awaits its effect. That the mode changes also
there, and that WIPE_COMPLETION in another mode changes nothing of its own, is the model's choice:
notes/assumptions/18.md and 15.md. -/
def Obligations.WipeEmptiesThePart : Prop :=
  (∀ s : State, s.Ready .lp5 → s.mode = .halted ∨ s.mode = .closed →
    let c := Instr.wipe .lp5
    exec c s = .next
      ({ (s.arrived c).withMode .wiping with
          operation := some .wipe, pool := [], runs := [], passSerial := 0, strays := [], discrepancies := [],
          overflow := 0, clock := 0
          wands := s.wands.map fun k : ContextStore =>
            { current := { k.current with cursor := none, claimedRun := none }, stack := [], slot := none }
        }.responded c .ok .empty)) ∧
  ∀ s : State, s.Quiet →
    (s.mode = .wiping →
      let wiped := { s with operation := none }.withMode .halted
      (s.resetScheduled = false → exec .wipeCompletion s = .next
        (wiped.updatePort .lp5 fun q => q.raiseHeld (.opDone .wipe)).kick) ∧
      (s.resetScheduled = true → exec .wipeCompletion s = .next wiped.kick)) ∧
    (s.mode ≠ .wiping → exec .wipeCompletion s = .next s.kick)

/-- 10.8: STATUS in every mode, and TOTALS in every mode without an operation in flight, report the part as it stands
and change nothing but their answer. -/
def Obligations.StatusAndTotalsReportThePart : Prop :=
  ∀ s : State, s.Ready .lp5 →
    exec (.status .lp5) s = .next ((s.arrived (.status .lp5)).responded (.status .lp5) .ok
      (.status s.mode s.operation s.clock s.passSerial s.pool.length s.strays.length s.discrepancies.length
        s.overflow)) ∧
    (s.mode.Settled →
      let sum (f : LoadedRun → Nat) : Nat := (s.runs.map fun x : RunNo × LoadedRun => f x.2).sum
      let sums : Tallies :=
        ⟨sum (·.shelf.tallies.expected), sum (·.shelf.tallies.shelved), sum (·.shelf.tallies.displaced),
          sum (·.shelf.tallies.onLoan), sum (·.shelf.tallies.returned), sum (·.shelf.tallies.missing)⟩
      let inState (st : RunState) : Nat := s.runs.countP fun x : RunNo × LoadedRun => x.2.stage.state == st
      exec (.totals .lp5) s = .next ((s.arrived (.totals .lp5)).responded (.totals .lp5) .ok
        (.totals sums
          [280 - s.runs.length, inState .loading, inState .ready, inState .claimed, inState .held, inState .checked,
            inState .rescan, inState .review, inState .closed]
          (completion (sum (·.shelf.entries.length)) sums.expected sums.missing))))

/-- 10.8: the six status sums of TOTALS add to the number of entries in use, and its nine counts of run states to 280,
wherever the Item Register's account holds (`RegisterAccountIsKept`). -/
def Obligations.TotalsAddUp : Prop :=
  ∀ s : State, s.Accounted →
    s.tallySums.sum = s.pool.length ∧ s.itemSum = s.pool.length ∧ (RunState.all.map s.runsIn).sum = 280

/-! ## Loading -/

/-- 3.2: the tests of a LOAD_RUN in their order, and what an accepted one writes: the limits as carried, the length
clamped to 300 to 1500, no pass, no entries, LOADING. It answers with the length in force. -/
def Obligations.LoadRunOpensTheRun : Prop :=
  ∀ (run : U16) (lower upper : CarriedKey) (length : U16) (s : State), s.Ready .lp5 → s.mode.Loadable →
    let c := Instr.loadRun .lp5 run lower upper length
    (280 ≤ run.toNat → exec c s = .next ((s.arrived c).responded c .range .empty)) ∧
    ∀ r : RunNo, run.toNat = r.val →
      (readKey lower = none ∨ readKey upper = none → exec c s = .next ((s.arrived c).responded c .key .empty)) ∧
      ∀ lo hi : ShelfKey, readKey lower = some lo → readKey upper = some hi →
        (compareKeys lo hi = .gt → exec c s = .next ((s.arrived c).responded c .key .empty)) ∧
        (compareKeys lo hi ≠ .gt →
          (s.runState r ≠ .unloaded → exec c s = .next ((s.arrived c).responded c .state .empty)) ∧
          (s.runState r = .unloaded → exec c s = .next
            (((s.arrived c).setRun r
              { lower := lo, upper := hi, length := max 300 (min 1500 length.toNat), passCount := 0,
                lastPass := .noPass, stage := .loading, shelf := { entries := [], tallies := ⟨0, 0, 0, 0, 0, 0⟩ } }
              ).responded c .ok (.length (max 300 (min 1500 length.toNat))))))

/-- 2.5: the tests and load checks of a LOAD_ITEM in their order: the first that fails gives the condition, and the
request changes nothing but adds its answer. -/
def Obligations.LoadItemChecksInOrder : Prop :=
  ∀ (run : U16) (tag : Tag) (key : CarriedKey) (initial : Byte) (s : State), s.Ready .lp5 → s.mode.Loadable →
    let c := Instr.loadItem .lp5 run tag key initial
    let refused (x : Condition) : Prop := exec c s = .next ((s.arrived c).responded c x .empty)
    (280 ≤ run.toNat → refused .range) ∧
    ∀ r : RunNo, run.toNat = r.val →
      (readKey key = none → refused .key) ∧
      ∀ k : ShelfKey, readKey key = some k →
        (initial.toNat ≠ 0 → initial.toNat ≠ 3 → refused .range) ∧
        (initial.toNat = 0 ∨ initial.toNat = 3 →
          (s.runState r ≠ .loading → refused .state) ∧
          ∀ x : LoadedRun, s.run r = some x → x.stage = .loading →
            (betweenLimits k x.lower x.upper ≠ .eq → refused .limits) ∧
            (betweenLimits k x.lower x.upper = .eq →
              (∀ (last : Nat) (e : Entry), x.shelf.entries.getLast? = some last → s.entry last = some e →
                compareKeys k e.key = .lt → refused .order) ∧
              ((∀ (last : Nat) (e : Entry), x.shelf.entries.getLast? = some last → s.entry last = some e →
                  compareKeys k e.key ≠ .lt) →
                ((∃ y ∈ s.pool, y.2.tag = tag) → refused .dupTag) ∧
                ((∀ y ∈ s.pool, y.2.tag ≠ tag) →
                  12288 ≤ s.pool.length ∨ 240 ≤ x.shelf.entries.length → refused .full))))

/-- 2.5, 6.3: an accepted LOAD_ITEM creates its entry in the lowest free place, appends it to its run's list and raises
the tally of its status. Without a stray of its tag it has the status carried and nothing else; with one it is DISPLACED
and VISITOR with the stray's last reading, and the stray record leaves the list. Nothing else changes. -/
def Obligations.LoadItemCreatesOrAdopts : Prop :=
  ∀ (run : U16) (r : RunNo) (tag : Tag) (key : CarriedKey) (k : ShelfKey) (initial : Byte) (st : Status)
    (x : LoadedRun) (s : State), s.Ready .lp5 → s.mode.Loadable → s.Canonical → run.toNat = r.val →
    readKey key = some k → (initial.toNat = 0 ∧ st = .expected ∨ initial.toNat = 3 ∧ st = .onLoan) →
    s.run r = some x → x.stage = .loading → betweenLimits k x.lower x.upper = .eq →
    (∀ (last : Nat) (e : Entry), x.shelf.entries.getLast? = some last → s.entry last = some e →
      compareKeys k e.key ≠ .lt) →
    (∀ y ∈ s.pool, y.2.tag ≠ tag) → s.pool.length < 12288 → x.shelf.entries.length < 240 →
    let c := Instr.loadItem .lp5 run tag key initial
    ∃ i : Nat, s.entry i = none ∧ (∀ j < i, (s.entry j).isSome = true) ∧
      let created (e : Entry) (strays : List Stray) : State :=
        (({ s.arrived c with strays := strays, pool := tablePut i e s.pool } : State).setRun r
          { x with shelf := { entries := x.shelf.entries ++ [i], tallies := x.shelf.tallies.rise e.status } });
      ((∀ y ∈ s.strays, y.tag ≠ tag) →
        exec c s = .next ((created
          { tag := tag, key := k, homeRun := r, status := st, judgement := none, flags := .clear,
            lastSighting := none } s.strays).responded c .ok (.itemLoaded i st none none))) ∧
      ∀ (before after : List Stray) (y : Stray), s.strays = before ++ y :: after → y.tag = tag →
        (∀ z ∈ before ++ after, z.tag ≠ tag) →
        exec c s = .next ((created
          { tag := tag, key := k, homeRun := r, status := .displaced, judgement := some .visitor, flags := .clear,
            lastSighting := some { run := y.lastRun, position := y.lastPosition, port := y.lastPort,
                                   serial := y.lastSerial, time := y.lastTime } } (before ++ after)).responded c .ok
          (.itemLoaded i .displaced (some .visitor) (some (y.lastRun, y.lastPosition))))

/-- 2.6, 3.2, 3.7: LOAD_DONE, UNLOAD_RUN, RESET_PASSES and CLOSE_RUN: RANGE, then STATE from every state but those each
takes, and the change of the named run, of nothing else, that each makes. -/
def Obligations.RunRequestsMoveTheirRuns : Prop :=
  ∀ (run : U16) (s : State), s.Ready .lp5 → s.mode.Loadable →
    (280 ≤ run.toNat → ∀ c ∈ [Instr.loadDone .lp5 run, .unloadRun .lp5 run, .resetPasses .lp5 run, .closeRun .lp5 run],
      exec c s = .next ((s.arrived c).responded c .range .empty)) ∧
    ∀ r : RunNo, run.toNat = r.val →
      (let c := Instr.loadDone .lp5 run;
        (s.runState r ≠ .loading → exec c s = .next ((s.arrived c).responded c .state .empty)) ∧
        ∀ x, s.run r = some x → x.stage = .loading → exec c s = .next
          (((s.arrived c).setRun r { x with stage := .ready }).responded c .ok
            (.itemCount x.shelf.entries.length))) ∧
      (let c := Instr.unloadRun .lp5 run;
        (s.run r = none → exec c s = .next ((s.arrived c).responded c .state .empty)) ∧
        (∀ x, s.run r = some x → ¬ (x.stage = .loading ∨ x.stage = .ready ∧ x.passCount = 0) →
          exec c s = .next ((s.arrived c).responded c .state .empty)) ∧
        ∀ x, s.run r = some x → x.stage = .loading ∨ x.stage = .ready ∧ x.passCount = 0 → exec c s = .next
          ({ s.arrived c with pool := s.pool.filter fun y => decide (y.2.homeRun ≠ r),
                              runs := s.runs.filter fun y => decide (y.1 ≠ r) }.responded c .ok
            (.freed x.shelf.entries.length))) ∧
      (let c := Instr.resetPasses .lp5 run;
        (s.runState r ≠ .checked → s.runState r ≠ .review →
          exec c s = .next ((s.arrived c).responded c .state .empty)) ∧
        ∀ x, s.run r = some x → x.stage = .checked ∨ x.stage = .review → exec c s = .next
          (((s.arrived c).setRun r { x with stage := .rescan, passCount := 0 }).responded c .ok (.run r))) ∧
      (let c := Instr.closeRun .lp5 run;
        (s.runState r ∉ [RunState.ready, .checked, .rescan, .review] →
          exec c s = .next ((s.arrived c).responded c .state .empty)) ∧
        ∀ x, s.run r = some x → s.runState r ∈ [RunState.ready, .checked, .rescan, .review] → exec c s = .next
          (((s.arrived c).setRun r { x with stage := .closed }).responded c .ok
            (.runClosed r (completion x.shelf.entries.length x.shelf.tallies.expected x.shelf.tallies.missing))))

/-! ## Claims and passes -/

/-- 3.3, 4.2: the tests of a CLAIM in their order, the run that its index names in the window, and the pass that an
accepted one begins; nothing else changes. -/
def Obligations.ClaimBeginsAPass : Prop :=
  ∀ (w : WandPort) (index : Byte) (s : State), s.Ready w.port → s.mode = .counting →
    let c := Instr.claim w.port index
    let ctx := (s.wand w).current
    let refused (x : Condition) : Prop := exec c s = .next ((s.arrived c).responded c x .empty)
    (index.toNat = 7 ∨ 15 ≤ index.toNat → refused .range) ∧
    ∀ (i : ShelfIndex) (r : RunNo), i.number = index.toNat → r = ctx.resolve i →
      (index.toNat < 7 → r.val = ctx.bayA.val * 7 + index.toNat) ∧
      (7 < index.toNat → r.val = ctx.bayB.val * 7 + (index.toNat - 8)) ∧
      (s.runState r ≠ .ready → s.runState r ≠ .rescan → refused .state) ∧
      ∀ x, s.run r = some x → x.stage = .ready ∨ x.stage = .rescan →
        (ctx.claimedRun ≠ none → refused .holding) ∧
        (ctx.claimedRun = none → s.passSerial.toNat = 4294967295 → refused .full) ∧
        (ctx.claimedRun = none → s.passSerial.toNat < 4294967295 → exec c s = .next
          ((({ s.arrived c with passSerial := s.passSerial + 1 }.setRun r
            { x with passCount := x.passCount + 1,
                     stage := .claimed
                      { claimant := w, timer := s.config.claimInterval,
                        pass := { serial := s.passSerial + 1, direction := ctx.direction, anchor := none,
                                  pendingEntry := none, lastPosition := none,
                                  counters := ⟨0, 0, 0, 0, 0, 0, 0⟩ } } }).setWand w
            { s.wand w with current := { ctx with cursor := some i, claimedRun := some r } }).responded c .ok
            (.claimed { run := r, serial := s.passSerial + 1, passCount := x.passCount + 1,
                        direction := ctx.direction, length := x.length, itemCount := x.shelf.entries.length })))

/-- 4.4: CLAIM_NEXT is refused HOLDING under a claim; else it takes the first READY or RESCAN run after the cursor in
window order and claims it as a CLAIM does, or is refused FULL at the last serial; where there is none it is answered
NONE. -/
def Obligations.ClaimNextSearchesTheWindow : Prop :=
  windowOrder.map ShelfIndex.number = [0, 1, 2, 3, 4, 5, 6, 8, 9, 10, 11, 12, 13, 14] ∧
  ∀ (w : WandPort) (s : State), s.Ready w.port → s.mode = .counting →
    let c := Instr.claimNext w.port
    let ctx := (s.wand w).current
    let refused (x : Condition) : Prop := exec c s = .next ((s.arrived c).responded c x .empty)
    let examined := windowOrder.filter fun j => ctx.cursor.all fun k => decide (k.number < j.number)
    let claimable (j : ShelfIndex) : Prop :=
      s.runState (ctx.resolve j) = .ready ∨ s.runState (ctx.resolve j) = .rescan
    (ctx.claimedRun ≠ none → refused .holding) ∧
    (ctx.claimedRun = none → (∀ j ∈ examined, ¬ claimable j) → refused .none) ∧
    ∀ (before after : List ShelfIndex) (i : ShelfIndex) (r : RunNo) (x : LoadedRun), ctx.claimedRun = none →
      examined = before ++ i :: after → (∀ j ∈ before, ¬ claimable j) → claimable i → r = ctx.resolve i →
      s.run r = some x →
      (s.passSerial.toNat = 4294967295 → refused .full) ∧
      (s.passSerial.toNat < 4294967295 → exec c s = .next
        ((({ s.arrived c with passSerial := s.passSerial + 1 }.setRun r
          { x with passCount := x.passCount + 1,
                   stage := .claimed
                    { claimant := w, timer := s.config.claimInterval,
                      pass := { serial := s.passSerial + 1, direction := ctx.direction, anchor := none,
                                pendingEntry := none, lastPosition := none,
                                counters := ⟨0, 0, 0, 0, 0, 0, 0⟩ } } }).setWand w
          { s.wand w with current := { ctx with cursor := some i, claimedRun := some r } }).responded c .ok
          (.claimedNext i { run := r, serial := s.passSerial + 1, passCount := x.passCount + 1,
                            direction := ctx.direction, length := x.length, itemCount := x.shelf.entries.length })))

/-- 3.5: a RUN_END or RUN_ABANDON of a run not claimed by the requesting port is refused NOT_CLAIMANT or NO_CLAIM as the
run's claim or its last pass says, and RANGE beyond the runs; each changes nothing but adds its answer. -/
def Obligations.OnlyTheClaimantEndsItsPass : Prop :=
  ∀ (w : WandPort) (run : U16) (s : State) (c : Instr), s.Ready w.port → s.mode.Opened →
    c = .runEnd w.port run ∨ c = .runAbandon w.port run →
    let refused (x : Condition) : Prop := exec c s = .next ((s.arrived c).responded c x .empty)
    (280 ≤ run.toNat → refused .range) ∧
    ∀ r : RunNo, run.toNat = r.val →
      (s.run r = none → refused .noClaim) ∧
      ∀ x, s.run r = some x →
        (∀ k, x.stage = .claimed k → k.claimant ≠ w → refused .notClaimant) ∧
        (∀ k, x.stage = .held k → refused .notClaimant) ∧
        (x.stage.claim? = none → x.lastPass.port? = some w → refused .notClaimant) ∧
        (x.stage.claim? = none → x.lastPass.port? ≠ some w → refused .noClaim)

/-- 3.5, 5.4: a RUN_END from the claimant gives the pending entry, if there is one, its pass-end judgement; then the
counters of the pass choose CLEAN or UNCLEAN and CHECKED, RESCAN or REVIEW, the pass is dropped, the context loses its
claim and PASS_DONE is raised on LP5. Nothing else changes. That an entry before the anchor is the one judged BEHIND is
the model's reading of a sentence that contradicts itself: notes/assumptions/10.md. -/
def Obligations.RunEndJudgesAndEndsThePass : Prop :=
  ∀ (w : WandPort) (run : U16) (r : RunNo) (x : LoadedRun) (k : Claim) (s judged : State), s.Ready w.port →
    s.mode.Opened → run.toNat = r.val → s.run r = some x → x.stage = .claimed k → k.claimant = w →
    let c := Instr.runEnd w.port run
    ((k.pass.pendingEntry = none ∧ judged = s.arrived c) ∨
      ∃ i e, k.pass.pendingEntry = some i ∧ s.entry i = some e ∧
        ((k.pass.anchor = none ∧ judged = (s.arrived c).judge r w i e .inOrder) ∨
        ∃ a f, k.pass.anchor = some a ∧ s.entry a = some f ∧
          (comesBefore k.pass.direction e.key f.key = true ∧ judged = (s.arrived c).judge r w i e .behind ∨
          comesBefore k.pass.direction e.key f.key = false ∧ judged = (s.arrived c).judge r w i e .inOrder))) →
    ∀ n : Counters, n = judged.counters r →
      let clean : Prop := n.ahead = 0 ∧ n.behind = 0 ∧ n.visitors = 0 ∧ n.strays = 0 ∧ n.gaps = 0
      let ended (g : Stage) (o : PassOutcome) (last : LastPass) : Prop := exec c s = .next
        ((((judged.updateRun r fun y => { y with stage := g, lastPass := last }).updateContext w fun ctx =>
          { ctx with claimedRun := none }).notify .lp5 (.passDone r o)).responded c .ok
          (.passEnded r o g.state x.passCount n))
      (clean → ended .checked .clean (.clean w k.pass.serial)) ∧
      (¬ clean → x.passCount < s.config.passLimit → ended .rescan .unclean (.unclean w k.pass.serial)) ∧
      (¬ clean → s.config.passLimit ≤ x.passCount → ended .review .unclean (.unclean w k.pass.serial))

/-- 3.5: RUN_ABANDON from the claimant abandons its pass and answers with the counters as they stood; FORCE_RELEASE
abandons the pass of a CLAIMED or HELD run, raises RELEASED on the claimant's port and answers with the claimant; it is
refused RANGE beyond the runs and STATE for a run in any other state. Nothing else changes. -/
def Obligations.AbandonAndForceReleaseEndPasses : Prop :=
  ∀ (run : U16) (s : State), s.mode.Opened →
    (∀ (w : WandPort) (r : RunNo) (x : LoadedRun) (k : Claim), s.Ready w.port → run.toNat = r.val →
      s.run r = some x → x.stage = .claimed k → k.claimant = w →
      let c := Instr.runAbandon w.port run
      exec c s = .next (((s.arrived c).abandon r .runAbandon).responded c .ok
        (.passAbandoned r (if x.passCount < s.config.passLimit then .rescan else .review) x.passCount
          k.pass.counters))) ∧
    (s.Ready .lp5 →
      let c := Instr.forceRelease .lp5 run
      (280 ≤ run.toNat → exec c s = .next ((s.arrived c).responded c .range .empty)) ∧
      ∀ r : RunNo, run.toNat = r.val →
        (s.claim? r = none → exec c s = .next ((s.arrived c).responded c .state .empty)) ∧
        ∀ x k, s.run r = some x → x.stage = .claimed k ∨ x.stage = .held k →
          exec c s = .next ((((s.arrived c).abandon r .forced).updatePort k.claimant.port fun q =>
            q.raiseHeld (.released r .forced)).responded c .ok
            (.released r k.claimant (if x.passCount < s.config.passLimit then .rescan else .review))))

/-- 3.5, R58: a pass abandoned for any reason ends without judgement: the run goes to RESCAN below the pass limit and to
REVIEW at it, its last pass is written, its claim and pass record are dropped, the claimant's context that names it,
current or stacked, loses its claim, a PASS_ABANDONED record is offered and PASS_DONE is raised on LP5. No entry, no
tally, no other run, no other context and no earlier record changes. -/
def Obligations.AbandonedPassEndsWithoutJudgement : Prop :=
  ∀ (r : RunNo) (y : Reason) (x : LoadedRun) (k : Claim) (s t : State), s.run r = some x →
    x.stage = .claimed k ∨ x.stage = .held k → t = s.abandon r y →
    let record : Discrepancy :=
      { kind := .passAbandoned, time := s.clock, run := some r, port := some k.claimant.port, reason := some y }
    let lost (ctx : Context) : Context := if ctx.claimedRun = some r then { ctx with claimedRun := none } else ctx
    t.run r = some { x with stage := if x.passCount < s.config.passLimit then .rescan else .review,
                            lastPass := .abandoned y k.claimant k.pass.serial } ∧
    (∀ q, q ≠ r → t.run q = s.run q) ∧
    t.wand k.claimant = { s.wand k.claimant with
      current := lost (s.wand k.claimant).current, stack := (s.wand k.claimant).stack.map lost } ∧
    (∀ v, v ≠ k.claimant → t.wand v = s.wand v) ∧
    (s.discrepancies.length < 256 → t.discrepancies = s.discrepancies ++ [record] ∧ t.overflow = s.overflow) ∧
    (256 ≤ s.discrepancies.length → t.discrepancies = s.discrepancies ∧
      t.overflow = if s.overflow < 65535 then s.overflow + 1 else s.overflow) ∧
    (t.port .lp5).held = { (s.port .lp5).held with
      passDone := some (r, .abandoned)
      queueFull := (s.port .lp5).held.queueFull || s.discrepancies.length == 255 } ∧
    t = { s with runs := t.runs, wands := t.wands, discrepancies := t.discrepancies, overflow := t.overflow,
                 ports := s.ports.set { s.ports.lp5 with held := (t.port .lp5).held } .lp5 }

/-! ## Sightings -/

/-- 5.1: SIGHT under no claim is refused NO_CLAIM as a whole. Under one it takes its sightings one after another in the
pass of the claimed run, each on the part as the one before it left it, and answers their outcomes and clamp flags in
order and the last accepted position after them, which is then present. -/
def Obligations.SightTakesItsSightingsInOrder : Prop :=
  (∀ (r : RunNo) (w : WandPort) (s : State), s.sightAll r w [] = ([], s)) ∧
  (∀ (r : RunNo) (w : WandPort) (x : Sighting) (rest : List Sighting) (s t u : State) (o : SightOutcome × Bool)
    (os : List (SightOutcome × Bool)), s.sightOne r w x = (o, t) → t.sightAll r w rest = (os, u) →
      s.sightAll r w (x :: rest) = (o :: os, u)) ∧
  ∀ (w : WandPort) (sightings : List Sighting) (s : State), s.Ready w.port → s.mode = .counting →
    1 ≤ sightings.length → sightings.length ≤ 8 →
    let c := Instr.sight w.port sightings
    ((s.wand w).current.claimedRun = none → exec c s = .next ((s.arrived c).responded c .noClaim .empty)) ∧
    ∀ (r : RunNo) (x : LoadedRun) (k : Claim), (s.wand w).current.claimedRun = some r → s.run r = some x →
      x.stage = .claimed k →
      ∃ outcomes t y j position, (s.arrived c).sightAll r w sightings = (outcomes, t) ∧
        outcomes.length = sightings.length ∧ t.run r = some y ∧ y.stage = .claimed j ∧
        j.pass.lastPosition = some position ∧
        exec c s = .next (t.responded c .ok (.sighted outcomes (some position)))

/-- 5.2, 3.4: the position of a sighting is clamped to the length of the run. One that lies behind the last accepted
position by more than the backtrack tolerance is a BACKTRACK and changes nothing. Every other one makes a GAP, with its
record, its counter and its prompt, when it advances by more than the gap limit; it moves the last accepted position
forward in the direction of travel and never back, and sets the claim timer to the full interval; then its tag is
classified. -/
def Obligations.PositionTestsComeBeforeClassification : Prop :=
  ∀ (r : RunNo) (w : WandPort) (x : Sighting) (y : LoadedRun) (k : Claim) (s : State), s.run r = some y →
    y.stage = .claimed k →
    let position : Nat := min x.position.toNat y.length
    let clamped : Bool := decide (y.length < x.position.toNat)
    let advance (l : Nat) : Int :=
      if k.pass.direction = .forward then (position : Int) - (l : Int) else (l : Int) - (position : Int)
    let accepted (t : State) (l : Nat) : State := t.updateClaim r fun c =>
      { c with timer := s.config.claimInterval, pass := { c.pass with lastPosition := some l } }
    let classified (t : State) : (SightOutcome × Bool) × State :=
      (((t.classify r w k.pass.serial position clamped x.tag).1, clamped),
        (t.classify r w k.pass.serial position clamped x.tag).2)
    (k.pass.lastPosition = none → s.sightOne r w x = classified (accepted s position)) ∧
    ∀ l : Nat, k.pass.lastPosition = some l →
      (advance l < -(s.config.backtrackTolerance : Int) → s.sightOne r w x = ((.backtrack, clamped), s)) ∧
      (-(s.config.backtrackTolerance : Int) ≤ advance l → advance l ≤ (s.config.gapLimit : Int) →
        s.sightOne r w x = classified (accepted s (if 0 < advance l then position else l))) ∧
      (-(s.config.backtrackTolerance : Int) ≤ advance l → (s.config.gapLimit : Int) < advance l →
        s.sightOne r w x = classified (accepted
          (((s.offer { kind := .gap, time := s.clock, run := some r, port := some w.port, position := some l,
                       positionTo := some position }).count r .gaps).prompt w (.gap l position))
          (if 0 < advance l then position else l)))

/-- 5.4: the arrival of a home item in the order check: with no pending entry it becomes pending and nothing is judged;
a pending entry before the anchor is judged BEHIND; else it is judged IN_ORDER, and becomes the anchor, when it comes no
later than the arriving item or the arriving item comes before the anchor, and AHEAD otherwise. The arriving item then
takes the pending place. -/
def Obligations.ArrivingItemJudgesThePendingOne : Prop :=
  ∀ (r : RunNo) (w : WandPort) (i : Nat) (key : ShelfKey) (y : LoadedRun) (k : Claim) (s : State), s.run r = some y →
    y.stage = .claimed k →
    let enter (t : State) : State := t.updatePass r fun p => { p with pendingEntry := some i }
    let earlier (a b : ShelfKey) : Prop := travelCompare k.pass.direction a b = .lt
    (k.pass.pendingEntry = none → s.arrive r w k.pass i key = enter s) ∧
    ∀ (j : Nat) (e : Entry), k.pass.pendingEntry = some j → s.entry j = some e →
      let accept : Prop := s.arrive r w k.pass i key = (s.judge r w j e .inOrder).updatePass r fun p =>
        { p with anchor := some j, pendingEntry := some i }
      let reject (g : Judgement) : Prop := s.arrive r w k.pass i key = enter (s.judge r w j e g)
      (k.pass.anchor = none → (¬ earlier key e.key → accept) ∧ (earlier key e.key → reject .ahead)) ∧
      ∀ (a : Nat) (f : Entry), k.pass.anchor = some a → s.entry a = some f →
        (earlier e.key f.key → reject .behind) ∧
        (¬ earlier e.key f.key →
          (¬ earlier key e.key → accept) ∧
          (earlier key e.key → earlier key f.key → accept) ∧
          (earlier key e.key → ¬ earlier key f.key → reject .ahead))

/-- 5.5: a judgement IN_ORDER makes its entry SHELVED, and AHEAD and BEHIND make it DISPLACED, each with the tally move of
its home run and the counter of its kind; AHEAD and BEHIND offer a record and raise a PULL prompt, both with the position
of the entry's last sighting. Nothing else changes. -/
def Obligations.JudgementWritesItsEntry : Prop :=
  ∀ (r : RunNo) (w : WandPort) (i : Nat) (e : Entry) (l : LastSighting) (y : LoadedRun) (k : Claim) (s : State),
    s.run r = some y → y.stage = .claimed k → s.entry i = some e → e.homeRun = r → e.lastSighting = some l →
    let judged (g : Judgement) (st : Status) (n : Counters) : State :=
      ({ s with pool := tablePut i { e with judgement := some g, status := st } s.pool } : State).setRun r
        { y with
          stage := .claimed { k with pass := { k.pass with counters := n } }
          shelf := { y.shelf with
            tallies := if e.status = st then y.shelf.tallies else y.shelf.tallies.move e.status st } }
    let record (d : DiscrepancyKind) : Discrepancy :=
      { kind := d, time := s.clock, run := some r, port := some w.port, entry := some i, tag := some e.tag,
        position := some l.position }
    let more (n : Nat) : Nat := if n < 65535 then n + 1 else n
    let n := k.pass.counters
    s.judge r w i e .inOrder = judged .inOrder .shelved { n with inOrder := more n.inOrder } ∧
    s.judge r w i e .ahead = ((judged .ahead .displaced { n with ahead := more n.ahead }).offer (record .ahead)).prompt w
      (.pull e.tag l.position (some .ahead)) ∧
    s.judge r w i e .behind =
      ((judged .behind .displaced { n with behind := more n.behind }).offer (record .behind)).prompt w
        (.pull e.tag l.position (some .behind))

/-- 5.3: a reading of an entry not yet read in the pass. It leaves the pending slot of another run; its last sighting is
written; an ON_LOAN entry gets the LOAN_CONFLICT flag and a PHANTOM_LOAN record. A home entry is UNJUDGED with its status
kept and enters the order check; an entry of another run becomes DISPLACED and VISITOR, with its tally move, the visitors
counter, a VISITOR record and a PULL prompt. -/
def Obligations.FreshReadingsAreHomeItemsOrVisitors : Prop :=
  ∀ (r : RunNo) (w : WandPort) (position : Nat) (clamped : Bool) (tag : Tag) (i : Nat) (e : Entry) (y : LoadedRun)
    (k : Claim) (s : State), s.Canonical → s.run r = some y → y.stage = .claimed k → s.lookup tag = some (i, e) →
    (∀ l, e.lastSighting = some l → l.serial ≠ k.pass.serial) →
    let seen : Entry :=
      { e with
        flags := { e.flags with
          clamped := e.flags.clamped || clamped, loanConflict := e.flags.loanConflict || e.status == Status.onLoan }
        lastSighting := some { run := r, position := position, port := w, serial := k.pass.serial, time := s.clock } }
    let record (d : DiscrepancyKind) : Discrepancy :=
      { kind := d, time := s.clock, run := some r, port := some w.port, entry := some i, tag := some tag,
        position := some position }
    let phantom (t : State) : State := if e.status = .onLoan then t.offer (record .phantomLoan) else t
    let put (f : Entry) (t : State) : State := { t with pool := tablePut i f t.pool }
    (e.homeRun = r → k.pass.pendingEntry ≠ some i →
      s.classify r w k.pass.serial position clamped tag =
        (.inRun, (phantom (put { seen with judgement := some .unjudged } s)).arrive r w k.pass i e.key)) ∧
    (e.homeRun ≠ r →
      let t := phantom (put { seen with status := .displaced, judgement := some .visitor }
        (s.updatePass e.homeRun fun p => if p.pendingEntry = some i then { p with pendingEntry := none } else p))
      let t := t.updateRun e.homeRun fun x => { x with
        shelf := { x.shelf with
          tallies := if e.status = .displaced then x.shelf.tallies else x.shelf.tallies.move e.status .displaced } }
      let t := t.updatePass r fun p => { p with
        counters := { p.counters with
          visitors := if p.counters.visitors < 65535 then p.counters.visitors + 1 else p.counters.visitors } }
      s.classify r w k.pass.serial position clamped tag =
        (.visitor, (t.offer (record .visitor)).prompt w (.pull tag position (some .visitor))))

/-- 6.4: a second reading of an entry in the pass is absorbed within the debounce span of its last sighting, leaving all
but its CLAMPED flag; farther off it is a move: the MOVED flag, a record of the old and the new place, the new last
sighting and the moved counter. Its status, judgement and place in the order check stay. -/
def Obligations.SecondReadingsAreAbsorbedOrMoves : Prop :=
  ∀ (r : RunNo) (w : WandPort) (position : Nat) (clamped : Bool) (tag : Tag) (i : Nat) (e : Entry) (l : LastSighting)
    (y : LoadedRun) (k : Claim) (s : State), s.Canonical → s.run r = some y → y.stage = .claimed k →
    s.lookup tag = some (i, e) → e.lastSighting = some l → l.serial = k.pass.serial →
    let far : Prop := l.run ≠ r ∨ l.position + s.config.debounceSpan < position ∨
      position + s.config.debounceSpan < l.position
    let flags : EntryFlags := { e.flags with clamped := e.flags.clamped || clamped }
    let moved : Entry :=
      { e with
        flags := { flags with moved := true }
        lastSighting := some { run := r, position := position, port := w, serial := k.pass.serial, time := s.clock } }
    (¬ far → s.classify r w k.pass.serial position clamped tag =
      (.absorbed, { s with pool := tablePut i { e with flags := flags } s.pool })) ∧
    (far → s.classify r w k.pass.serial position clamped tag =
      (.moved,
        (({ s with pool := tablePut i moved s.pool } : State).offer
          { kind := .moved, time := s.clock, run := some l.run, port := some w.port, entry := some i,
            tag := some tag, position := some l.position, positionTo := some position, runTo := some r }).updatePass r
        fun p => { p with
          counters := { p.counters with
            moved := if p.counters.moved < 65535 then p.counters.moved + 1 else p.counters.moved } }))

/-- 6.2: a reading of a tag that is not listed. A known stray within the debounce span of its last recorded place in the
pass is absorbed and changes nothing; any other known stray has its last fields written and its count raised; an unknown
one joins the end of the list with a PULL prompt, and with STRAY_FULL as the 512th, or is lost with a STRAY_LOST record
when the list is full. The strays counter rises in all but the first case. -/
def Obligations.StrayReadingsFollowTheStrayList : Prop :=
  ∀ (r : RunNo) (w : WandPort) (serial : U32) (position : Nat) (clamped : Bool) (tag : Tag) (s : State),
    (∀ x ∈ s.pool, x.2.tag ≠ tag) →
    let counted (t : State) : State := t.updatePass r fun p => { p with
      counters := { p.counters with
        strays := if p.counters.strays < 65535 then p.counters.strays + 1 else p.counters.strays } }
    let outcome := s.classify r w serial position clamped tag
    (∀ (before after : List Stray) (y : Stray), s.strays = before ++ y :: after → y.tag = tag →
      (∀ z ∈ before ++ after, z.tag ≠ tag) →
      let near : Prop := y.lastSerial = serial ∧ y.lastRun = r ∧ position ≤ y.lastPosition + s.config.debounceSpan ∧
        y.lastPosition ≤ position + s.config.debounceSpan
      let again : Stray :=
        { y with lastRun := r, lastPosition := position, lastPort := w, lastSerial := serial, lastTime := s.clock,
                 count := if y.count < 255 then y.count + 1 else y.count }
      (near → outcome = (.absorbed, s)) ∧
      (¬ near → outcome = (.strayAgain, counted { s with strays := before ++ again :: after }))) ∧
    ((∀ y ∈ s.strays, y.tag ≠ tag) →
      let listed : State := { s with strays := s.strays ++
        [{ tag := tag, firstRun := r, firstPosition := position, firstPort := w, lastRun := r, lastPosition := position,
           lastPort := w, lastSerial := serial, lastTime := s.clock, count := 1 }] }
      let pull : Prompt := .pull tag position none
      (s.strays.length < 511 → outcome = (.strayNew, (counted listed).prompt w pull)) ∧
      (s.strays.length = 511 → outcome =
        (.strayNew, (counted (listed.updatePort .lp5 fun q => q.raiseHeld .strayFull)).prompt w pull)) ∧
      (512 ≤ s.strays.length → outcome = (.strayLost, counted (s.offer
        { kind := .strayLost, time := s.clock, run := some r, port := some w.port, tag := some tag,
          position := some position }))))

/-! ## Circulation -/

/-- 7.1, 7.2: a LOAN of a tag not listed is answered NOT_LISTED. Any other withdraws its entry from the pending slot it
stands in, sets SEEN_BEFORE_LOAN for a pending, SHELVED or DISPLACED entry, and makes the entry ON_LOAN with its tally
move; an entry already ON_LOAN gets LOAN_CONFLICT and a record instead. The judgement and last sighting stay. A MISSING
entry, which no LOAN can meet, is treated as EXPECTED by the model's choice: notes/assumptions/13.md. -/
def Obligations.LoanSendsItsEntryOut : Prop :=
  ∀ (tag : Tag) (s : State), s.Ready .lp4 → s.mode.Opened →
    let c := Instr.loan .lp4 tag
    ((∀ x ∈ s.pool, x.2.tag ≠ tag) → exec c s = .next ((s.arrived c).responded c .notListed .empty)) ∧
    ∀ (i : Nat) (e : Entry), s.Canonical → s.lookup tag = some (i, e) →
      let slot : Option RunNo :=
        (s.claim? e.homeRun).bind fun k => if k.pass.pendingEntry = some i then some e.homeRun else none
      let free : State := (s.arrived c).updatePass e.homeRun fun p =>
        if p.pendingEntry = some i then { p with pendingEntry := none } else p
      let flags : EntryFlags :=
        { e.flags with
          seenBeforeLoan := e.flags.seenBeforeLoan || slot.isSome || e.status == Status.shelved ||
            e.status == Status.displaced }
      let put (f : Entry) : State := { free with pool := tablePut i f free.pool }
      (e.status ≠ .onLoan → exec c s = .next
        (((put { e with status := .onLoan, flags := flags }).updateRun e.homeRun fun x =>
          { x with shelf := { x.shelf with tallies := x.shelf.tallies.move e.status .onLoan } }).responded c .ok
          (.lent { index := i, homeRun := e.homeRun, found := e.status, after := .onLoan, flags := flags,
                   record := none } slot))) ∧
      (e.status = .onLoan →
        let flags : EntryFlags := { flags with loanConflict := true }
        exec c s = .next
          (((put { e with flags := flags }).offer
            { kind := .loanConflict, time := s.clock, run := some e.homeRun, port := some .lp4, entry := some i,
              tag := some tag }).responded c .ok
            (.lent { index := i, homeRun := e.homeRun, found := .onLoan, after := .onLoan, flags := flags,
                     record := some .loanConflict } slot)))

/-- 7.1, 7.3: a RETURN of a tag not listed is answered NOT_LISTED. An ON_LOAN entry becomes RETURNED; an EXPECTED one
becomes RETURNED with LOAN_CONFLICT and a RETURN_CONFLICT record; every other entry is left as it was, with the record. A
pending entry stays pending. That a MISSING entry, which no RETURN can meet, is left with the record is the model's
choice: notes/assumptions/13.md. -/
def Obligations.ReturnTakesItsEntryBack : Prop :=
  ∀ (tag : Tag) (s : State), s.Ready .lp4 → s.mode.Opened →
    let c := Instr.returnItem .lp4 tag
    ((∀ x ∈ s.pool, x.2.tag ≠ tag) → exec c s = .next ((s.arrived c).responded c .notListed .empty)) ∧
    ∀ (i : Nat) (e : Entry), s.Canonical → s.lookup tag = some (i, e) →
      let put (f : Entry) : State :=
        ({ s.arrived c with pool := tablePut i f s.pool } : State).updateRun e.homeRun fun x =>
          { x with shelf := { x.shelf with tallies := x.shelf.tallies.move e.status .returned } }
      let record : Discrepancy :=
        { kind := .returnConflict, time := s.clock, run := some e.homeRun, port := some .lp4, entry := some i,
          tag := some tag }
      (e.status = .onLoan → exec c s = .next ((put { e with status := .returned }).responded c .ok
        (.returned { index := i, homeRun := e.homeRun, found := .onLoan, after := .returned, flags := e.flags,
                     record := none }))) ∧
      (e.status = .expected →
        let flags : EntryFlags := { e.flags with loanConflict := true }
        exec c s = .next (((put { e with status := .returned, flags := flags }).offer record).responded c .ok
          (.returned { index := i, homeRun := e.homeRun, found := .expected, after := .returned, flags := flags,
                       record := some .returnConflict }))) ∧
      (e.status ≠ .onLoan → e.status ≠ .expected → exec c s = .next (((s.arrived c).offer record).responded c .ok
        (.returned { index := i, homeRun := e.homeRun, found := e.status, after := e.status, flags := e.flags,
                     record := some .returnConflict })))

/-! ## Windows, diversion and masks -/

/-- 4.3, 8.2: SET_WINDOW writes both bay pointers, refused RANGE when either bay is beyond 39, and clears the cursor;
SET_DIRECTION writes the direction, refused RANGE and then HOLDING; SET_DIVERT writes the slot of the named wand port,
refused RANGE. Each changes the context store of one wand port and nothing else. -/
def Obligations.WindowRequestsWriteTheContext : Prop :=
  ∀ s : State, s.mode.Settled →
    (∀ (w : WandPort) (bayA bayB : Byte), s.Ready w.port →
      let c := Instr.setWindow w.port bayA bayB
      let store := s.wand w
      (40 ≤ bayA.toNat ∨ 40 ≤ bayB.toNat → exec c s = .next ((s.arrived c).responded c .range .empty)) ∧
      ∀ a b : Bay, bayA.toNat = a.val → bayB.toNat = b.val → exec c s = .next
        (((s.arrived c).setWand w { store with
          current := { store.current with bayA := a, bayB := b, cursor := none } }).responded c .ok
          (.window a b store.current.direction))) ∧
    (∀ (w : WandPort) (value : Byte), s.Ready w.port →
      let c := Instr.setDirection w.port value
      let store := s.wand w
      (2 ≤ value.toNat → exec c s = .next ((s.arrived c).responded c .range .empty)) ∧
      (value.toNat < 2 → store.current.claimedRun ≠ none →
        exec c s = .next ((s.arrived c).responded c .holding .empty)) ∧
      ∀ d : Direction, value = directionCode d → store.current.claimedRun = none → exec c s = .next
        (((s.arrived c).setWand w { store with current := { store.current with direction := d } }).responded c .ok
          (.direction d))) ∧
    ∀ wand bayA bayB value : Byte, s.Ready .lp5 →
      let c := Instr.setDivert .lp5 wand bayA bayB value
      (4 ≤ wand.toNat ∨ 40 ≤ bayA.toNat ∨ 40 ≤ bayB.toNat ∨ 2 ≤ value.toNat →
        exec c s = .next ((s.arrived c).responded c .range .empty)) ∧
      ∀ (v : WandPort) (a b : Bay) (d : Direction), wand = v.port.number → bayA.toNat = a.val → bayB.toNat = b.val →
        value = directionCode d → exec c s = .next
          (((s.arrived c).setWand v { s.wand v with slot := some { bayA := a, bayB := b, direction := d } }).responded c
            .ok (.slotFilled v { bayA := a, bayB := b, direction := d } (s.wand v).slot.isSome))

/-- 8.3: the tests of a DIVERT in their order; an accepted one pushes the current context of the named wand port, holds
the run it claims with its claim whole, makes the prepared context current with no cursor and no claim, empties the slot
and raises DIVERTED. Nothing else changes. -/
def Obligations.DivertSetsTheContextAside : Prop :=
  ∀ (wand : Byte) (s : State), s.Ready .lp5 → s.mode.Opened →
    let c := Instr.divert .lp5 wand
    let refused (x : Condition) : Prop := exec c s = .next ((s.arrived c).responded c x .empty)
    (4 ≤ wand.toNat → refused .range) ∧
    ∀ v : WandPort, wand = v.port.number →
      ((s.wand v).slot = none → refused .empty) ∧
      ∀ prepared : Prepared, (s.wand v).slot = some prepared →
        (3 ≤ (s.wand v).stack.length → refused .depth) ∧
        ((s.wand v).stack.length < 3 →
          let old := (s.wand v).current
          let switched : State := (s.arrived c).setWand v
            { current := { bayA := prepared.bayA, bayB := prepared.bayB, direction := prepared.direction,
                           cursor := none, claimedRun := none }
              stack := old :: (s.wand v).stack
              slot := none }
          let answer (t : State) : Prop := exec c s = .next
            ((t.updatePort v.port fun q => q.raiseHeld (.diverted prepared)).responded c .ok
              (.diverted v ((s.wand v).stack.length + 1) old.claimedRun prepared))
          (old.claimedRun = none → answer switched) ∧
          ∀ (r : RunNo) (x : LoadedRun) (k : Claim), old.claimedRun = some r → s.run r = some x →
            x.stage = .claimed k → answer (switched.setRun r { x with stage := .held k }))

/-- 8.4: the tests of a RESUME in their order; an accepted one makes the top context of the stack current again with
every field as it stood, and the run it names returns to CLAIMED with its pass kept and its timer at the full interval.
Nothing else changes. -/
def Obligations.ResumeRestoresTheContext : Prop :=
  ∀ (w : WandPort) (s : State), s.Ready w.port → s.mode.Opened →
    let c := Instr.resume w.port
    let refused (x : Condition) : Prop := exec c s = .next ((s.arrived c).responded c x .empty)
    ((s.wand w).current.claimedRun ≠ none → refused .holding) ∧
    ((s.wand w).current.claimedRun = none →
      ((s.wand w).stack = [] → refused .empty) ∧
      ∀ (top : Context) (rest : List Context), (s.wand w).stack = top :: rest →
        let restored : State := (s.arrived c).setWand w { s.wand w with current := top, stack := rest }
        let answer (t : State) (claim : Option ResumedClaim) : Prop := exec c s = .next (t.responded c .ok
          (.resumed top.bayA top.bayB top.direction top.cursor claim rest.length))
        (top.claimedRun = none → answer restored none) ∧
        ∀ (r : RunNo) (x : LoadedRun) (k : Claim), top.claimedRun = some r → s.run r = some x → x.stage = .held k →
          answer (restored.setRun r { x with stage := .claimed { k with timer := s.config.claimInterval } })
            (some { run := r, serial := k.pass.serial, passCount := x.passCount, lastPosition := k.pass.lastPosition }))

/-- 9.3.1: SET_MASK on any port is refused RANGE when its set names a kind beyond the nine, and else replaces the mask of
its port; it answers with the mask and the held kinds pending. Nothing else changes. -/
def Obligations.SetMaskReplacesTheMask : Prop :=
  ∀ (p : Port) (kinds : U16) (s : State), s.Ready p → s.mode.Settled →
    let c := Instr.setMask p kinds
    (512 ≤ kinds.toNat → exec c s = .next ((s.arrived c).responded c .range .empty)) ∧
    (kinds.toNat < 512 → ∃ mask pendingKinds : BitVec 9, mask.toNat = kinds.toNat ∧
      (∀ k : NoticeKind, pendingKinds.getLsbD k.bit = ((s.port p).held.get? k).isSome) ∧
      exec c s = .next (((s.arrived c).updatePort p fun q => { q with mask := mask }).responded c .ok
        (.masks mask pendingKinds)))

/-! ## Reports -/

/-- 3.8, 4.5: READ_RUN and QUERY_RUN report the run they name as it stands, and QUERY_RUN of a whole bay reports its
seven runs and their sums; RANGE beyond the runs and beyond index 15. They change nothing but add their answer. -/
def Obligations.RunReportsShowTheRuns : Prop :=
  ∀ s : State, s.mode.Settled →
    (∀ run : U16, s.Ready .lp5 →
      let c := Instr.readRun .lp5 run
      (280 ≤ run.toNat → exec c s = .next ((s.arrived c).responded c .range .empty)) ∧
      ∀ r : RunNo, run.toNat = r.val →
        (s.run r = none → exec c s = .next ((s.arrived c).responded c .ok (.runReport r none))) ∧
        ∀ x, s.run r = some x → exec c s = .next ((s.arrived c).responded c .ok
          (.runReport r (some { record := x, itemCount := x.shelf.entries.length, completion := x.shelf.completion,
                                timerRunning := decide ((∃ k, x.stage.claim? = some k ∧ x.stage = .claimed k) ∧
                                  s.mode = .counting) })))) ∧
    ∀ (w : WandPort) (index : Byte), s.Ready w.port →
      let c := Instr.queryRun w.port index
      (16 ≤ index.toNat → exec c s = .next ((s.arrived c).responded c .range .empty)) ∧
      (∀ i : ShelfIndex, i.number = index.toNat →
        let r := (s.wand w).current.resolve i
        (s.run r = none →
          exec c s = .next ((s.arrived c).responded c .ok (.shelfReport i r .unloaded none none))) ∧
        ∀ x, s.run r = some x → exec c s = .next ((s.arrived c).responded c .ok
          (.shelfReport i r x.stage.state
            (some { itemCount := x.shelf.entries.length, tallies := x.shelf.tallies, completion := x.shelf.completion,
                    passCount := x.passCount, lastOutcome := x.lastPass.outcome })
            (x.stage.claim?.map fun k : Claim => (k.claimant, k.claimant == w))))) ∧
      ∀ (side : Side) (bay : Bay) (runs : List RunNo),
        (side = .bayA ∧ index.toNat = 7 ∧ bay = (s.wand w).current.bayA ∨
          side = .bayB ∧ index.toNat = 15 ∧ bay = (s.wand w).current.bayB) →
        runs.map Fin.val = [0, 1, 2, 3, 4, 5, 6].map (fun j : Nat => bay.val * 7 + j) →
        let sum (f : Tallies → Nat) : Nat := (runs.map fun r : RunNo => f (s.tallies r)).sum
        let items : Nat := (runs.map s.itemCount).sum
        exec c s = .next ((s.arrived c).responded c .ok (.bayReport
          { side := side, bay := bay, runs := runs.map fun r : RunNo => (r, s.runState r)
            sums := ⟨sum (·.expected), sum (·.shelved), sum (·.displaced), sum (·.onLoan), sum (·.returned),
              sum (·.missing)⟩
            itemCount := items
            completion := completion items (sum (·.expected)) (sum (·.missing)) }))

/-- 2.8, 6.5, 9.2: READ_ENTRY, QUERY_ITEM and READ_STRAY report what they name as it stands and change nothing but add
their answer; READ_DISCREPANCY takes the record at the head of the queue. Each is answered RANGE, NONE, NOT_LISTED or
EMPTY where it names nothing. -/
def Obligations.RegisterAndQueueReadings : Prop :=
  ∀ s : State, s.mode.Settled →
    let report (i : Nat) (e : Entry) : EntryReport :=
      { index := i, entry := e
        pendingIn :=
          (s.claim? e.homeRun).bind fun k => if k.pass.pendingEntry = some i then some e.homeRun else none }
    (∀ (run : U16) (ordinal : Byte), s.Ready .lp5 →
      let c := Instr.readEntry .lp5 run ordinal
      (280 ≤ run.toNat ∨ 240 ≤ ordinal.toNat → exec c s = .next ((s.arrived c).responded c .range .empty)) ∧
      ∀ r : RunNo, run.toNat = r.val → ordinal.toNat < 240 →
        (s.itemCount r ≤ ordinal.toNat →
          exec c s = .next ((s.arrived c).responded c .none (.itemCount (s.itemCount r)))) ∧
        ∀ x i e, s.run r = some x → x.shelf.entries[ordinal.toNat]? = some i → s.entry i = some e →
          exec c s = .next ((s.arrived c).responded c .ok (.entryInList (report i e) x.shelf.entries.length))) ∧
    (∀ (p : Port) (tag : Tag), s.Ready p →
      let c := Instr.queryItem p tag
      ((∀ x ∈ s.pool, x.2.tag ≠ tag) → exec c s = .next ((s.arrived c).responded c .notListed .empty)) ∧
      ∀ i e, s.Canonical → s.lookup tag = some (i, e) →
        exec c s = .next ((s.arrived c).responded c .ok (.entry (report i e)))) ∧
    (∀ ordinal : U16, s.Ready .lp5 →
      let c := Instr.readStray .lp5 ordinal
      (512 ≤ ordinal.toNat → exec c s = .next ((s.arrived c).responded c .range .empty)) ∧
      (ordinal.toNat < 512 → s.strays.length ≤ ordinal.toNat →
        exec c s = .next ((s.arrived c).responded c .none (.strayCount s.strays.length))) ∧
      ∀ y, ordinal.toNat < 512 → s.strays[ordinal.toNat]? = some y →
        exec c s = .next ((s.arrived c).responded c .ok (.stray y s.strays.length))) ∧
    (s.Ready .lp5 →
      let c := Instr.readDiscrepancy .lp5
      (s.discrepancies = [] →
        exec c s = .next ((s.arrived c).responded c .empty (.queueEmpty s.overflow))) ∧
      ∀ d rest, s.discrepancies = d :: rest → exec c s = .next
        (({ s.arrived c with discrepancies := rest } : State).responded c .ok
          (.discrepancy d rest.length s.overflow)))

/-- 1.4: LOCATE refuses a malformed key KEY, and else answers the number of loaded runs whose limits hold the key, the
first eight of them in ascending order, and, when there are none, the highest-numbered loaded run that the key lies
above, or that there is none. It changes nothing but adds its answer. -/
def Obligations.LocateNamesTheRuns : Prop :=
  ∀ (key : CarriedKey) (s : State), s.Ready .lp5 → s.mode.Settled → s.Canonical →
    let c := Instr.locate .lp5 key
    (readKey key = none → exec c s = .next ((s.arrived c).responded c .key .empty)) ∧
    ∀ (k : ShelfKey) (runs : List RunNo), readKey key = some k → runs.Pairwise (· < ·) →
      (∀ r, r ∈ runs ↔ ∃ x, s.run r = some x ∧ betweenLimits k x.lower x.upper = .eq) →
      let above (r : RunNo) : Prop := ∃ x, s.run r = some x ∧ betweenLimits k x.lower x.upper = .gt
      let answer (p : Preceding) : Prop := exec c s = .next ((s.arrived c).responded c .ok
        (.located runs.length (runs.take 8) p))
      (runs ≠ [] → answer .absent) ∧
      (runs = [] → (∀ r, ¬ above r) → answer .noRun) ∧
      ∀ r, runs = [] → above r → (∀ q, above q → q ≤ r) → answer (.run r)

/-! ## Collation -/

/-- 1.1, 11.2.1: which byte of the 24 becomes which position of a carried key; which carried keys are well formed; the seven
fields of a well-formed key, from its counted positions alone; and a key that the part holds, sent in its 24 bytes, reads
back as itself. -/
def Obligations.CarriedKeysAreReadAsWritten : Prop :=
  (∀ (b0 b1 b2 b3 b4 b5 b6 b7 b8 b9 b10 b11 b12 b13 b14 b15 b16 b17 b18 b19 b20 b21 b22 b23 : Byte)
    (rest : List Byte), ∃ k : CarriedKey,
    takeKey ([b0, b1, b2, b3, b4, b5, b6, b7, b8, b9, b10, b11, b12, b13, b14, b15, b16, b17, b18, b19, b20, b21, b22,
      b23] ++ rest) = some (k, rest) ∧
    let number (x : U16) (hi lo : Byte) : Prop := x.toNat = 256 * hi.toNat + lo.toNat
    let positions (d : Digits) (x y z : Byte) : Prop :=
      [d.d1, d.d2, d.d3, d.d4, d.d5, d.d6].map (·.toNat) =
        [x.toNat / 16, x.toNat % 16, y.toNat / 16, y.toNat % 16, z.toNat / 16, z.toNat % 16]
    k.letter1 = b0 ∧ k.letter2 = b1 ∧ k.letter3 = b2 ∧ number k.classInteger b3 b4 ∧ k.fractionCount = b5 ∧
      positions k.fraction b6 b7 b8 ∧
      k.cutter1.letter = b9 ∧ k.cutter1.count = b10 ∧ positions k.cutter1.digits b11 b12 b13 ∧
      k.cutter2.letter = b14 ∧ k.cutter2.count = b15 ∧ positions k.cutter2.digits b16 b17 b18 ∧
      number k.year b19 b20 ∧ number k.volume b21 b22 ∧ k.spare = b23) ∧
  (∀ k : CarriedKey,
    let letter (b : Byte) : Prop := 65 ≤ b.toNat ∧ b.toNat ≤ 90
    let decimal (n : Nat) (d : Digits) : Prop := ∀ x ∈ [d.d1, d.d2, d.d3, d.d4, d.d5, d.d6].take n, x.toNat ≤ 9
    let absent (c : CarriedCutter) : Prop := c.letter = 0 ∧ c.count = 0
    let present (c : CarriedCutter) : Prop :=
      letter c.letter ∧ 1 ≤ c.count.toNat ∧ c.count.toNat ≤ 5 ∧ decimal c.count.toNat c.digits
    (readKey k).isSome = true ↔
      letter k.letter1 ∧ (k.letter2 = 0 ∨ letter k.letter2 ∧ (k.letter3 = 0 ∨ letter k.letter3)) ∧
      k.classInteger.toNat ≤ 9999 ∧ k.fractionCount.toNat ≤ 6 ∧ decimal k.fractionCount.toNat k.fraction ∧
      (absent k.cutter1 ∧ absent k.cutter2 ∨ present k.cutter1 ∧ (absent k.cutter2 ∨ present k.cutter2)) ∧
      k.year.toNat ≤ 9999 ∧ k.volume.toNat ≤ 999) ∧
  (∀ (k : CarriedKey) (h : ShelfKey), readKey k = some h →
    let counted (n : Byte) (d : Digits) : List Nat :=
      ([d.d1, d.d2, d.d3, d.d4, d.d5, d.d6].take n.toNat).map (·.toNat)
    let cutter (c : CarriedCutter) (x : Option Cutter) : Prop :=
      (c.letter = 0 → x = none) ∧ (c.letter ≠ 0 → x = some { letter := c.letter, digits := counted c.count c.digits })
    let optional (n : U16) (x : Option Nat) : Prop := (n = 0 → x = none) ∧ (n ≠ 0 → x = some n.toNat)
    (k.letter2 = 0 → h.letters = [k.letter1]) ∧
    (k.letter2 ≠ 0 → k.letter3 = 0 → h.letters = [k.letter1, k.letter2]) ∧
    (k.letter2 ≠ 0 → k.letter3 ≠ 0 → h.letters = [k.letter1, k.letter2, k.letter3]) ∧
    h.classInteger = k.classInteger.toNat ∧ h.fraction = counted k.fractionCount k.fraction ∧
    cutter k.cutter1 h.cutter1 ∧ cutter k.cutter2 h.cutter2 ∧ optional k.year h.year ∧ optional k.volume h.volume) ∧
  ∀ (k : CarriedKey) (h : ShelfKey), readKey k = some h →
    ∃ k', takeKey (heldKeyBytes h) = some (k', []) ∧ readKey k' = some h

/-- 1.2: a key sorts before another exactly when the first of the seven fields in which they differ, in the order of the
class letters, the class integer, the class fraction, cutter 1, cutter 2, the year and the volume, is the lower, and is
equal to it exactly when none differs. Letters compare as words do, the beginning of a word being the lower; fractions and
cutter digits as the numbers they make when zeros extend them to six and to five digits; cutters by letter and then by
digits; and an absent field is lower than a present one. So the comparison is one order: opposite when the keys are
exchanged, and transitive; and zeros that extend a fraction or a cutter within its length change nothing. -/
def Obligations.CollationIsOneOrder : Prop :=
  (∀ a b : ShelfKey,
    let value (width : Nat) (digits : List Nat) : Nat :=
      Nat.ofDigits 10 (digits ++ List.replicate (width - digits.length) 0).reverse
    let numberLower (x y : Option Nat) : Prop := ∃ n, y = some n ∧ ∀ m, x = some m → m < n
    let cutterLower (x y : Option Cutter) : Prop := ∃ d, y = some d ∧ ∀ c, x = some c →
      c.letter < d.letter ∨ c.letter = d.letter ∧ value 5 c.digits < value 5 d.digits
    let cutterSame (x y : Option Cutter) : Prop :=
      x.map (fun c : Cutter => (c.letter, value 5 c.digits)) = y.map fun c : Cutter => (c.letter, value 5 c.digits)
    (compareKeys a b = .lt ↔
      List.Lex (· < ·) a.letters b.letters ∨ a.letters = b.letters ∧
      (a.classInteger < b.classInteger ∨ a.classInteger = b.classInteger ∧
      (value 6 a.fraction < value 6 b.fraction ∨ value 6 a.fraction = value 6 b.fraction ∧
      (cutterLower a.cutter1 b.cutter1 ∨ cutterSame a.cutter1 b.cutter1 ∧
      (cutterLower a.cutter2 b.cutter2 ∨ cutterSame a.cutter2 b.cutter2 ∧
      (numberLower a.year b.year ∨ a.year = b.year ∧ numberLower a.volume b.volume)))))) ∧
    (compareKeys a b = .eq ↔
      a.letters = b.letters ∧ a.classInteger = b.classInteger ∧ value 6 a.fraction = value 6 b.fraction ∧
        cutterSame a.cutter1 b.cutter1 ∧ cutterSame a.cutter2 b.cutter2 ∧ a.year = b.year ∧ a.volume = b.volume)) ∧
  (∀ a b : ShelfKey, compareKeys b a = (compareKeys a b).swap) ∧
  (∀ a b c : ShelfKey, compareKeys a b ≠ .gt → compareKeys b c ≠ .gt →
    compareKeys a c ≠ .gt ∧ (compareKeys a c = .eq → compareKeys a b = .eq ∧ compareKeys b c = .eq)) ∧
  (∀ (k a : ShelfKey) (n : Nat), k.fraction.length + n ≤ 6 →
    compareKeys { k with fraction := k.fraction ++ List.replicate n 0 } a = compareKeys k a) ∧
  ∀ (k a : ShelfKey) (c : Cutter) (n : Nat), c.digits.length + n ≤ 5 →
    compareKeys { k with cutter1 := some { c with digits := c.digits ++ List.replicate n 0 } } a =
      compareKeys { k with cutter1 := some c } a ∧
    compareKeys { k with cutter2 := some { c with digits := c.digits ++ List.replicate n 0 } } a =
      compareKeys { k with cutter2 := some c } a

/-- R10, 1.3: travel order is the order of the keys in FORWARD and its opposite in REVERSE, and equal keys come no later
than one another in both; a key is BELOW, ABOVE or WITHIN a run's limits, which are inclusive, and never both BELOW and
ABOVE. -/
def Obligations.TravelOrderAndLimits : Prop :=
  (∀ a b : ShelfKey,
    travelCompare .forward a b = compareKeys a b ∧
    (compareKeys a b = .lt → travelCompare .reverse a b = .gt) ∧
    (compareKeys a b = .gt → travelCompare .reverse a b = .lt) ∧
    (compareKeys a b = .eq → travelCompare .reverse a b = .eq) ∧
    (∀ d : Direction, comesBefore d a b = true ↔ travelCompare d a b = .lt) ∧
    (∀ d : Direction, comesNoLater d a b = true ↔ travelCompare d a b = .lt ∨ travelCompare d a b = .eq) ∧
    (comesNoLater .forward a b = true ↔ compareKeys a b ≠ .gt) ∧
    (comesNoLater .reverse a b = true ↔ compareKeys a b ≠ .lt) ∧
    ∀ d : Direction, compareKeys a b = .eq → comesNoLater d a b = true ∧ comesNoLater d b a = true) ∧
  ∀ key lower upper : ShelfKey, compareKeys lower upper ≠ .gt →
    (betweenLimits key lower upper = .lt ↔ compareKeys key lower = .lt) ∧
    (betweenLimits key lower upper = .gt ↔ compareKeys key upper = .gt) ∧
    (betweenLimits key lower upper = .eq ↔ compareKeys key lower ≠ .lt ∧ compareKeys key upper ≠ .gt) ∧
    ¬ (compareKeys key lower = .lt ∧ compareKeys key upper = .gt) ∧
    (compareKeys key lower = .eq ∨ compareKeys key upper = .eq → betweenLimits key lower upper = .eq)

/-- R14: the completion of a run whose tallies add up to its item count, of at most 240 items: 1000 with no items, else the
accounted share in parts per thousand, rounded down; 1000 exactly when no entry is EXPECTED or MISSING, and 0 exactly
when there are entries and every one is. -/
def Obligations.CompletionMeasuresTheAccountedShare : Prop :=
  ∀ x : Shelf, x.tallies.sum = x.entries.length → x.entries.length ≤ 240 →
    let items := x.entries.length
    let accounted := items - x.tallies.expected - x.tallies.missing
    (items = 0 → x.completion = 1000) ∧
    (items ≠ 0 → x.completion = accounted * 1000 / items) ∧
    accounted = x.tallies.shelved + x.tallies.displaced + x.tallies.onLoan + x.tallies.returned ∧
    x.completion ≤ 1000 ∧
    (x.completion = 1000 ↔ x.tallies.expected = 0 ∧ x.tallies.missing = 0) ∧
    (x.completion = 0 ↔ items ≠ 0 ∧ x.tallies.expected + x.tallies.missing = items)

/-! ## Records and notices -/

/-- 9.2, 9.3: a record joins a queue of fewer than 256, raising QUEUE_FULL as the 256th, and is dropped and counted by a
full one; a prompt joins its port's queue unless its kind is masked or 4 wait; a held notice sets its own flag with the
newest parameter and no other flag, and a flag that is cleared leaves the others. -/
def Obligations.RecordsAndNoticesAreQueued : Prop :=
  (∀ (s : State) (d : Discrepancy),
    (s.discrepancies.length < 255 → s.offer d = { s with discrepancies := s.discrepancies ++ [d] }) ∧
    (s.discrepancies.length = 255 → s.offer d =
      ({ s with discrepancies := s.discrepancies ++ [d] } : State).updatePort .lp5 fun q =>
        { q with held := { q.held with queueFull := true } }) ∧
    (256 ≤ s.discrepancies.length → s.offer d =
      { s with overflow := if s.overflow < 65535 then s.overflow + 1 else s.overflow })) ∧
  (∀ (q : LinkPort) (n : Prompt),
    (q.mask.getLsbD n.kind.bit = true ∨ 4 ≤ q.prompts.length → q.raisePrompt n = q) ∧
    (q.mask.getLsbD n.kind.bit = false → q.prompts.length < 4 →
      q.raisePrompt n = { q with prompts := q.prompts ++ [n] })) ∧
  (∀ (q : LinkPort) (n : HeldNotice), ∃ k ∈ heldOrder, q.raiseHeld n = { q with held := q.held.raise n } ∧
    (q.held.raise n).get? k = some n ∧ ∀ j, j ≠ k → (q.held.raise n).get? j = q.held.get? j) ∧
  ∀ (h : HeldFlags) (k : NoticeKind), (h.drop k).get? k = none ∧ ∀ j, j ≠ k → (h.drop k).get? j = h.get? j

/-! ## The wire -/

/-- 11.2, 11.4: every well-formed request is read back, whole, from its own payload; a payload is read exactly when it has
the length of its kind, and the request read from it has that payload, byte for byte; and the frame of a well-formed
request passes the frame checks. That a SIGHT of no sighting or of more than eight has no admitted length is the model's
reading: notes/assumptions/16.md. -/
def Obligations.RequestsAndPayloadsAgree : Prop :=
  (∀ (c : Instr) (p : Port) (k : RequestKind) (payload : List Byte), c.request = some (p, k, payload) →
    c.wellFormed = true →
      k.lengthOk payload.length = true ∧ decodeRequest p k payload = some c ∧ decodeFrame p k.code payload = some c ∧
        (Frame.make k.code payload).reject? = none ∧
        frameOf (Frame.make k.code payload).bytes = Frame.make k.code payload) ∧
  (∀ (p : Port) (k : RequestKind) (payload : List Byte) (c : Instr), decodeRequest p k payload = some c →
    c.request = some (p, k, payload) ∧ c.wellFormed = true) ∧
  ∀ (p : Port) (k : RequestKind) (payload : List Byte),
    (decodeRequest p k payload).isSome = k.lengthOk payload.length

/-! ## Invariants -/

/-- The part right after reset meets every invariant stated below. -/
def Obligations.ResetMeetsTheInvariants : Prop :=
  State.reset.Canonical ∧ State.reset.Bounded ∧ State.reset.LinesBusy ∧ State.reset.Accounted ∧
    State.reset.StraysApart ∧ State.reset.ClaimsAgree ∧ State.reset.ModeAgrees ∧ State.reset.PassesAgree ∧
    State.reset.PassCountsAgree

/-- 1.5, 9.3.4 and the capacities of every list: every step keeps the tables in their canonical form and every collection
within its capacity, and leaves no line idle that has a frame to send. -/
def Obligations.CapacitiesAndLinesAreKept : Prop :=
  ∀ s t : State, s.Canonical ∧ s.Bounded ∧ s.LinesBusy → step s = .next t → t.Canonical ∧ t.Bounded ∧ t.LinesBusy

/-- 2.2 to 2.7, 6.1: every step keeps the Item Register's account: no tag is held twice, each entry's home run is loaded and
lists it once, its list is in key order within its limits, and its tallies count its entries by status. And every step
keeps the Stray List apart from it: one stray record for a tag, and none for a tag that an entry holds. -/
def Obligations.RegisterAccountIsKept : Prop :=
  (∀ s t : State, s.Accounted → step s = .next t → t.Accounted) ∧
  ∀ s t : State, s.StraysApart → step s = .next t → t.StraysApart

/-- 3.1, 3.3, 8.1, 10.1: every step keeps a run CLAIMED exactly while the current context of its claimant names it and
HELD exactly while one of its stacked contexts does, the operation in flight agreeing with the mode, and no claim
standing outside COUNTING and PAUSED. Every step keeps the pending entry and the anchor of a pass entries of its run that
have been read, the pending entry last in that pass; and every step keeps the pass counts within the pass limit and the
configuration within its ranges. -/
def Obligations.ClaimsContextsAndModesAgree : Prop :=
  (∀ s t : State, s.ClaimsAgree ∧ s.ModeAgrees → step s = .next t → t.ClaimsAgree ∧ t.ModeAgrees) ∧
  (∀ s t : State, s.Canonical ∧ s.PassesAgree → step s = .next t → t.Canonical ∧ t.PassesAgree) ∧
  ∀ s t : State, s.PassCountsAgree → step s = .next t → t.PassCountsAgree

/-- 10.1, 10.3, 10.4, 3.1: outside a reset of the part, the mode changes only by the commands and between the modes of
the mode table, the configuration only by CONFIGURE, the section clock only by its advance and by WIPE, the device pass
serial only by an accepted claim, by one, and by WIPE, and a device reset is awaited only after DEVICE_RESET. A command that
could reset the part and has nothing to take effect is among those meant. -/
def Obligations.OnlyTheirCommandsChangeTheControlState : Prop :=
  ∀ (c : Instr) (s t : State), exec c s = .next t → leavesThePart c s →
    (t.mode = s.mode ∨ modeChange c s.mode t.mode) ∧
    (t.config = s.config ∨ ∃ p a b d e f, c = .configure p a b d e f ∧ s.mode = .halted) ∧
    (t.clock = s.clock ∨
      (c = .sectionClockAdvance ∧ t.clock = s.clock + 1 ∧ (s.mode = .counting ∨ s.mode = .paused)) ∨
      ∃ p, c = .wipe p ∧ t.clock = 0 ∧ t.mode = .wiping) ∧
    (t.passSerial = s.passSerial ∨
      (((∃ p i, c = .claim p i) ∨ ∃ p, c = .claimNext p) ∧ s.mode = .counting ∧
        t.passSerial.toNat = s.passSerial.toNat + 1) ∨
      ∃ p, c = .wipe p ∧ t.passSerial = 0 ∧ t.mode = .wiping) ∧
    (t.resetScheduled = s.resetScheduled ∨ ∃ p, c = .deviceReset p ∧ t.resetScheduled = true)

/-- 4.1, 8.1: a request of one wand leaves every other wand's context store as it was, raises nothing on another wand's
port, and touches a pass that another wand has in flight only by withdrawing its pending entry. -/
def Obligations.WandsDoNotDisturbOneAnother : Prop :=
  ∀ (c : Instr) (w v : WandPort) (k : RequestKind) (payload : List Byte) (s t : State),
    c.request = some (w.port, k, payload) → s.Quiet → s.ClaimsAgree → exec c s = .next t → v ≠ w →
      t.wand v = s.wand v ∧ t.port v.port = (s.port v.port).choose ∧
      ∀ (r : RunNo) (j : Claim), s.claim? r = some j → j.claimant = v →
        t.claim? r = some j ∨ t.claim? r = some { j with pass := { j.pass with pendingEntry := none } }
end

