-- ==== Sys2Proof/Laws/Codec.lean ====
section
/-! SUPPORT. The byte layouts read back what they write: numbers, tags, keys and sightings (R165, R166). -/
namespace Sys2Proof

@[simp] theorem u16Bytes_length (x : U16) : (u16Bytes x).length = 2 := rfl
@[simp] theorem tagBytes_length (x : Tag) : (tagBytes x).length = 8 := rfl
@[simp] theorem keyBytes_length (k : CarriedKey) : (keyBytes k).length = 24 := rfl
@[simp] theorem sightingBytes_length (x : Sighting) : (sightingBytes x).length = 10 := rfl

/-! ## Joined bit strings and their parts -/

theorem append_high {m n : Nat} (a : BitVec m) (b : BitVec n) : (a ++ b).extractLsb' n m = a := by
  ext i hi
  simp [BitVec.getElem_extractLsb', BitVec.getLsbD_append, BitVec.getLsbD_eq_getElem hi]

theorem append_low {m n : Nat} (a : BitVec m) (b : BitVec n) : (a ++ b).extractLsb' 0 n = b := by
  ext i hi
  simp [BitVec.getElem_extractLsb', BitVec.getLsbD_append, hi]

theorem append_within {m n : Nat} (a : BitVec m) (b : BitVec n) (start len : Nat) (h : start + len ≤ n) :
    (a ++ b).extractLsb' start len = b.extractLsb' start len := by
  ext i hi
  simp [BitVec.getElem_extractLsb', BitVec.getLsbD_append, show start + i < n by omega]

theorem append_split {m n : Nat} (x : BitVec (m + n)) : x.extractLsb' n m ++ x.extractLsb' 0 n = x := by
  ext i hi
  simp only [BitVec.getElem_append, BitVec.getElem_extractLsb']
  split
  · rw [Nat.zero_add, BitVec.getLsbD_eq_getElem hi]
  · rw [Nat.add_sub_cancel' (by omega), BitVec.getLsbD_eq_getElem hi]

/-! ## Numbers, tags and digits -/

/-- A 2-byte number is the joining of its bytes. -/
@[simp] theorem u16Of_bytes (x : U16) : u16Of (x.extractLsb' 8 8) (x.extractLsb' 0 8) = x :=
  append_split (m := 8) (n := 8) x

/-- The bytes of a joined pair are the pair. -/
@[simp] theorem u16Bytes_of (a b : Byte) : u16Bytes (u16Of a b) = [a, b] :=
  congrArg₂ (fun x y => [x, y]) (append_high a b) (append_low a b)

/-- A tag is the joining of its bytes. -/
@[simp] theorem tagOf_bytes (x : Tag) :
    tagOf (x.extractLsb' 56 8) (x.extractLsb' 48 8) (x.extractLsb' 40 8) (x.extractLsb' 32 8)
      (x.extractLsb' 24 8) (x.extractLsb' 16 8) (x.extractLsb' 8 8) (x.extractLsb' 0 8) = x := by
  unfold tagOf
  rw [BitVec.extractLsb'_append_extractLsb'_eq_extractLsb' (by omega),
    BitVec.extractLsb'_append_extractLsb'_eq_extractLsb' (by omega),
    BitVec.extractLsb'_append_extractLsb'_eq_extractLsb' (by omega),
    BitVec.extractLsb'_append_extractLsb'_eq_extractLsb' (by omega),
    BitVec.extractLsb'_append_extractLsb'_eq_extractLsb' (by omega),
    BitVec.extractLsb'_append_extractLsb'_eq_extractLsb' (by omega),
    BitVec.extractLsb'_append_extractLsb'_eq_extractLsb' (by omega)]
  exact BitVec.extractLsb'_eq_self

/-- The bytes of joined bytes are those bytes. -/
@[simp] theorem tagBytes_of (b0 b1 b2 b3 b4 b5 b6 b7 : Byte) :
    tagBytes (tagOf b0 b1 b2 b3 b4 b5 b6 b7) = [b0, b1, b2, b3, b4, b5, b6, b7] := by
  have k {n : Nat} (a : Byte) (b : BitVec n) (st : Nat) (h : st + 8 ≤ n) := append_within a b st 8 h
  have h0 := append_high b0 (b1 ++ (b2 ++ (b3 ++ (b4 ++ (b5 ++ (b6 ++ b7))))))
  have h1 := (k b0 _ 48 (by omega)).trans (append_high b1 (b2 ++ (b3 ++ (b4 ++ (b5 ++ (b6 ++ b7))))))
  have h2 := (k b0 _ 40 (by omega)).trans ((k b1 _ 40 (by omega)).trans
    (append_high b2 (b3 ++ (b4 ++ (b5 ++ (b6 ++ b7))))))
  have h3 := (k b0 _ 32 (by omega)).trans ((k b1 _ 32 (by omega)).trans ((k b2 _ 32 (by omega)).trans
    (append_high b3 (b4 ++ (b5 ++ (b6 ++ b7))))))
  have h4 := (k b0 _ 24 (by omega)).trans ((k b1 _ 24 (by omega)).trans ((k b2 _ 24 (by omega)).trans
    ((k b3 _ 24 (by omega)).trans (append_high b4 (b5 ++ (b6 ++ b7))))))
  have h5 := (k b0 _ 16 (by omega)).trans ((k b1 _ 16 (by omega)).trans ((k b2 _ 16 (by omega)).trans
    ((k b3 _ 16 (by omega)).trans ((k b4 _ 16 (by omega)).trans (append_high b5 (b6 ++ b7))))))
  have h6 := (k b0 _ 8 (by omega)).trans ((k b1 _ 8 (by omega)).trans ((k b2 _ 8 (by omega)).trans
    ((k b3 _ 8 (by omega)).trans ((k b4 _ 8 (by omega)).trans ((k b5 _ 8 (by omega)).trans (append_high b6 b7))))))
  have h7 := (k b0 _ 0 (by omega)).trans ((k b1 _ 0 (by omega)).trans ((k b2 _ 0 (by omega)).trans
    ((k b3 _ 0 (by omega)).trans ((k b4 _ 0 (by omega)).trans ((k b5 _ 0 (by omega)).trans (append_low b6 b7))))))
  exact congrArg₂ _ h0 (congrArg₂ _ h1 (congrArg₂ _ h2 (congrArg₂ _ h3 (congrArg₂ _ h4 (congrArg₂ _ h5
    (congrArg₂ _ h6 (congrArg₂ _ h7 rfl)))))))

@[simp] theorem digitsOf_bytes (d : Digits) :
    digitsOf (d.d1 ++ d.d2) (d.d3 ++ d.d4) (d.d5 ++ d.d6) = d := by
  obtain ⟨a, b, c, e, f, g⟩ := d
  unfold digitsOf
  congr 1 <;> first | exact append_high _ _ | exact append_low _ _

@[simp] theorem digitBytes_of (x y z : Byte) : digitBytes (digitsOf x y z) = [x, y, z] :=
  congrArg₂ _ (append_split (m := 4) (n := 4) x)
    (congrArg₂ _ (append_split (m := 4) (n := 4) y) (congrArg₂ _ (append_split (m := 4) (n := 4) z) rfl))

/-! ## Keys and sightings -/

/-- A key is read back from its 24 bytes, whatever follows them. -/
@[simp] theorem takeKey_keyBytes (k : CarriedKey) (rest : List Byte) : takeKey (keyBytes k ++ rest) = some (k, rest) := by
  simp [keyBytes, cutterBytes, digitBytes, u16Bytes, takeKey]

/-- What is read as a key is the bytes of that key and what follows. -/
theorem takeKey_some {bytes rest : List Byte} {k : CarriedKey} (h : takeKey bytes = some (k, rest)) :
    bytes = keyBytes k ++ rest := by
  unfold takeKey at h
  split at h
  · cases h
    simp [keyBytes, cutterBytes]
  · cases h

/-- Sightings are read back from their bytes. -/
@[simp] theorem sightingsOf_bytes (xs : List Sighting) : sightingsOf (xs.flatMap sightingBytes) = some xs := by
  induction xs with
  | nil => rfl
  | cons x xs ih =>
    simp [sightingBytes, tagBytes, u16Bytes, sightingsOf] at ih ⊢
    exact ih

/-- What is read as sightings is their bytes. -/
theorem sightingsOf_some {bytes : List Byte} {xs : List Sighting} (h : sightingsOf bytes = some xs) :
    bytes = xs.flatMap sightingBytes := by
  induction bytes using sightingsOf.induct generalizing xs with
  | case1 => cases h; rfl
  | case2 b0 b1 b2 b3 b4 b5 b6 b7 b8 b9 rest ih =>
    simp only [sightingsOf, Option.map_eq_some_iff] at h
    obtain ⟨ys, hy, rfl⟩ := h
    simp [ih hy, sightingBytes]
  | case3 bytes h1 h2 =>
    unfold sightingsOf at h
    split at h
    · exact absurd rfl h1
    · exact absurd rfl (h2 _ _ _ _ _ _ _ _ _ _ _)
    · cases h

end Sys2Proof
end

