-- ==== Sys2Proof/Laws/Collation.lean ====
section
/-! SUPPORT. The comparison of keys (R5 to R9), field by field: when each comparison gives BEFORE and when EQUAL. -/
namespace Sys2Proof.Machine

theorem ordering_then_lt {x y : Ordering} : x.then y = .lt ↔ x = .lt ∨ x = .eq ∧ y = .lt := by cases x <;> simp

theorem ordering_then_eq {x y : Ordering} : x.then y = .eq ↔ x = .eq ∧ y = .eq := by cases x <;> simp

theorem compareNumbers_lt {a b : Nat} : compareNumbers a b = .lt ↔ a < b := by
  unfold compareNumbers
  split_ifs <;> simp <;> omega

theorem compareNumbers_eq {a b : Nat} : compareNumbers a b = .eq ↔ a = b := by
  unfold compareNumbers
  split_ifs <;> simp <;> omega

/-- Class letters compare as words do (R6). -/
theorem compareLetters_lt {a b : List Byte} : compareLetters a b = .lt ↔ List.Lex (· < ·) a b := by
  induction a generalizing b with
  | nil => cases b <;> simp [compareLetters]
  | cons x xs ih =>
    cases b with
    | nil => simp [compareLetters]
    | cons y ys =>
      simp only [compareLetters, ordering_then_lt, compareNumbers_lt, compareNumbers_eq, ih, ← BitVec.lt_def,
        ← BitVec.toNat_eq, List.cons_lex_cons_iff]

theorem compareLetters_eq {a b : List Byte} : compareLetters a b = .eq ↔ a = b := by
  induction a generalizing b with
  | nil => cases b <;> simp [compareLetters]
  | cons x xs ih =>
    cases b <;> simp [compareLetters, compareNumbers_eq, ih, BitVec.toNat_eq]

/-- A digit string's value, as the digits of a number in base ten (R7, R8). -/
theorem digitValue_eq (width : Nat) (digits : List Nat) :
    digitValue width digits = Nat.ofDigits 10 (digits ++ List.replicate (width - digits.length) 0).reverse := by
  suffices h : ∀ l : List Nat, l.foldl (fun n d => 10 * n + d) 0 = Nat.ofDigits 10 l.reverse from h _
  intro l
  induction l using List.reverseRecOn with
  | nil => rfl
  | append_singleton l d ih =>
    simp only [List.foldl_append, List.foldl_cons, List.foldl_nil, ih, List.reverse_append, List.reverse_singleton,
      List.singleton_append, Nat.ofDigits_cons]
    exact Nat.add_comm _ _

/-- A field that may be absent is the lower where it is absent and the other is not, or where both are present and it
compares so (R8, R9). -/
theorem compareOptional_lt {α : Type} {compare : α → α → Ordering} {x y : Option α} :
    compareOptional compare x y = .lt ↔ ∃ b, y = some b ∧ ∀ a, x = some a → compare a b = .lt := by
  cases x <;> cases y <;> simp [compareOptional]

theorem compareOptional_eq {α : Type} {compare : α → α → Ordering} {x y : Option α} :
    compareOptional compare x y = .eq ↔
      x = none ∧ y = none ∨ ∃ a b, x = some a ∧ y = some b ∧ compare a b = .eq := by
  cases x <;> cases y <;> simp [compareOptional]

/-- Cutters compare by letter and then by the value of their digits (R8). -/
theorem compareCutters_lt {a b : Cutter} : compareCutters a b = .lt ↔
    a.letter < b.letter ∨ a.letter = b.letter ∧ digitValue 5 a.digits < digitValue 5 b.digits := by
  simp only [compareCutters, ordering_then_lt, compareNumbers_lt, compareNumbers_eq, BitVec.lt_def, BitVec.toNat_eq]

theorem compareCutters_eq {a b : Cutter} : compareCutters a b = .eq ↔
    a.letter = b.letter ∧ digitValue 5 a.digits = digitValue 5 b.digits := by
  simp only [compareCutters, ordering_then_eq, compareNumbers_eq, BitVec.toNat_eq]

end Sys2Proof.Machine
end

