-- ==== Sys2Proof/Laws/State.lean ====
section
/-! SUPPORT. The small lemmas of the state's updates: what each leaves in every field it does not write, what it writes,
and the reading of one port or one context store after the writing of another. -/
namespace Sys2Proof.Machine

/-! ## Maps over the ports -/

@[simp] theorem PortMap.get_set_self {α : Type} (m : PortMap α) (x : α) (p : Port) : (m.set x p).get p = x := by
  cases p <;> rfl

theorem PortMap.get_set_ne {α : Type} (m : PortMap α) (x : α) {p q : Port} (h : q ≠ p) :
    (m.set x p).get q = m.get q := by
  cases p <;> cases q <;> first | rfl | exact absurd rfl h

theorem PortMap.get_set {α : Type} (m : PortMap α) (x : α) (p q : Port) :
    (m.set x p).get q = if q = p then x else m.get q := by
  cases p <;> cases q <;> rfl

@[simp] theorem PortMap.get_map {α β : Type} (f : α → β) (m : PortMap α) (p : Port) : (m.map f).get p = f (m.get p) := by
  cases p <;> rfl

@[simp] theorem PortMap.set_get {α : Type} (m : PortMap α) (p : Port) : m.set (m.get p) p = m := by
  cases p <;> rfl

@[simp] theorem PortMap.set_set {α : Type} (m : PortMap α) (x y : α) (p : Port) : (m.set x p).set y p = m.set y p := by
  cases p <;> rfl

theorem PortMap.ext_get {α : Type} {m n : PortMap α} (h : ∀ p, m.get p = n.get p) : m = n := by
  cases m; cases n
  have h0 := h .lp0; have h1 := h .lp1; have h2 := h .lp2
  have h3 := h .lp3; have h4 := h .lp4; have h5 := h .lp5
  simp only [PortMap.get] at h0 h1 h2 h3 h4 h5
  simp [h0, h1, h2, h3, h4, h5]

@[simp] theorem WandMap.get_set_self {α : Type} (m : WandMap α) (x : α) (w : WandPort) : (m.set x w).get w = x := by
  cases w <;> rfl

theorem WandMap.get_set_ne {α : Type} (m : WandMap α) (x : α) {w v : WandPort} (h : v ≠ w) :
    (m.set x w).get v = m.get v := by
  cases w <;> cases v <;> first | rfl | exact absurd rfl h

theorem WandMap.get_set {α : Type} (m : WandMap α) (x : α) (w v : WandPort) :
    (m.set x w).get v = if v = w then x else m.get v := by
  cases w <;> cases v <;> rfl

@[simp] theorem WandMap.get_map {α β : Type} (f : α → β) (m : WandMap α) (w : WandPort) : (m.map f).get w = f (m.get w) := by
  cases w <;> rfl

@[simp] theorem WandMap.set_get {α : Type} (m : WandMap α) (w : WandPort) : m.set (m.get w) w = m := by
  cases w <;> rfl

/-! ## The fields an update leaves -/

/-! ### State.updatePort -/

@[simp] theorem State.updatePort_pending (s : State) (p : Port) (f : LinkPort → LinkPort) : (s.updatePort p f).pending = s.pending := rfl
@[simp] theorem State.updatePort_pins (s : State) (p : Port) (f : LinkPort → LinkPort) : (s.updatePort p f).pins = s.pins := rfl
@[simp] theorem State.updatePort_receiving (s : State) (p : Port) (f : LinkPort → LinkPort) : (s.updatePort p f).receiving = s.receiving := rfl
@[simp] theorem State.updatePort_mode (s : State) (p : Port) (f : LinkPort → LinkPort) : (s.updatePort p f).mode = s.mode := rfl
@[simp] theorem State.updatePort_config (s : State) (p : Port) (f : LinkPort → LinkPort) : (s.updatePort p f).config = s.config := rfl
@[simp] theorem State.updatePort_clock (s : State) (p : Port) (f : LinkPort → LinkPort) : (s.updatePort p f).clock = s.clock := rfl
@[simp] theorem State.updatePort_operation (s : State) (p : Port) (f : LinkPort → LinkPort) : (s.updatePort p f).operation = s.operation := rfl
@[simp] theorem State.updatePort_resetScheduled (s : State) (p : Port) (f : LinkPort → LinkPort) : (s.updatePort p f).resetScheduled = s.resetScheduled := rfl
@[simp] theorem State.updatePort_pool (s : State) (p : Port) (f : LinkPort → LinkPort) : (s.updatePort p f).pool = s.pool := rfl
@[simp] theorem State.updatePort_runs (s : State) (p : Port) (f : LinkPort → LinkPort) : (s.updatePort p f).runs = s.runs := rfl
@[simp] theorem State.updatePort_passSerial (s : State) (p : Port) (f : LinkPort → LinkPort) : (s.updatePort p f).passSerial = s.passSerial := rfl
@[simp] theorem State.updatePort_wands (s : State) (p : Port) (f : LinkPort → LinkPort) : (s.updatePort p f).wands = s.wands := rfl
@[simp] theorem State.updatePort_strays (s : State) (p : Port) (f : LinkPort → LinkPort) : (s.updatePort p f).strays = s.strays := rfl
@[simp] theorem State.updatePort_discrepancies (s : State) (p : Port) (f : LinkPort → LinkPort) : (s.updatePort p f).discrepancies = s.discrepancies := rfl
@[simp] theorem State.updatePort_overflow (s : State) (p : Port) (f : LinkPort → LinkPort) : (s.updatePort p f).overflow = s.overflow := rfl

/-! ### State.setWand -/

@[simp] theorem State.setWand_pending (s : State) (w : WandPort) (c : ContextStore) : (s.setWand w c).pending = s.pending := rfl
@[simp] theorem State.setWand_pins (s : State) (w : WandPort) (c : ContextStore) : (s.setWand w c).pins = s.pins := rfl
@[simp] theorem State.setWand_receiving (s : State) (w : WandPort) (c : ContextStore) : (s.setWand w c).receiving = s.receiving := rfl
@[simp] theorem State.setWand_mode (s : State) (w : WandPort) (c : ContextStore) : (s.setWand w c).mode = s.mode := rfl
@[simp] theorem State.setWand_config (s : State) (w : WandPort) (c : ContextStore) : (s.setWand w c).config = s.config := rfl
@[simp] theorem State.setWand_clock (s : State) (w : WandPort) (c : ContextStore) : (s.setWand w c).clock = s.clock := rfl
@[simp] theorem State.setWand_operation (s : State) (w : WandPort) (c : ContextStore) : (s.setWand w c).operation = s.operation := rfl
@[simp] theorem State.setWand_resetScheduled (s : State) (w : WandPort) (c : ContextStore) : (s.setWand w c).resetScheduled = s.resetScheduled := rfl
@[simp] theorem State.setWand_pool (s : State) (w : WandPort) (c : ContextStore) : (s.setWand w c).pool = s.pool := rfl
@[simp] theorem State.setWand_runs (s : State) (w : WandPort) (c : ContextStore) : (s.setWand w c).runs = s.runs := rfl
@[simp] theorem State.setWand_passSerial (s : State) (w : WandPort) (c : ContextStore) : (s.setWand w c).passSerial = s.passSerial := rfl
@[simp] theorem State.setWand_strays (s : State) (w : WandPort) (c : ContextStore) : (s.setWand w c).strays = s.strays := rfl
@[simp] theorem State.setWand_discrepancies (s : State) (w : WandPort) (c : ContextStore) : (s.setWand w c).discrepancies = s.discrepancies := rfl
@[simp] theorem State.setWand_overflow (s : State) (w : WandPort) (c : ContextStore) : (s.setWand w c).overflow = s.overflow := rfl
@[simp] theorem State.setWand_ports (s : State) (w : WandPort) (c : ContextStore) : (s.setWand w c).ports = s.ports := rfl

/-! ### State.updateContext -/

@[simp] theorem State.updateContext_pending (s : State) (w : WandPort) (f : Context → Context) : (s.updateContext w f).pending = s.pending := rfl
@[simp] theorem State.updateContext_pins (s : State) (w : WandPort) (f : Context → Context) : (s.updateContext w f).pins = s.pins := rfl
@[simp] theorem State.updateContext_receiving (s : State) (w : WandPort) (f : Context → Context) : (s.updateContext w f).receiving = s.receiving := rfl
@[simp] theorem State.updateContext_mode (s : State) (w : WandPort) (f : Context → Context) : (s.updateContext w f).mode = s.mode := rfl
@[simp] theorem State.updateContext_config (s : State) (w : WandPort) (f : Context → Context) : (s.updateContext w f).config = s.config := rfl
@[simp] theorem State.updateContext_clock (s : State) (w : WandPort) (f : Context → Context) : (s.updateContext w f).clock = s.clock := rfl
@[simp] theorem State.updateContext_operation (s : State) (w : WandPort) (f : Context → Context) : (s.updateContext w f).operation = s.operation := rfl
@[simp] theorem State.updateContext_resetScheduled (s : State) (w : WandPort) (f : Context → Context) : (s.updateContext w f).resetScheduled = s.resetScheduled := rfl
@[simp] theorem State.updateContext_pool (s : State) (w : WandPort) (f : Context → Context) : (s.updateContext w f).pool = s.pool := rfl
@[simp] theorem State.updateContext_runs (s : State) (w : WandPort) (f : Context → Context) : (s.updateContext w f).runs = s.runs := rfl
@[simp] theorem State.updateContext_passSerial (s : State) (w : WandPort) (f : Context → Context) : (s.updateContext w f).passSerial = s.passSerial := rfl
@[simp] theorem State.updateContext_strays (s : State) (w : WandPort) (f : Context → Context) : (s.updateContext w f).strays = s.strays := rfl
@[simp] theorem State.updateContext_discrepancies (s : State) (w : WandPort) (f : Context → Context) : (s.updateContext w f).discrepancies = s.discrepancies := rfl
@[simp] theorem State.updateContext_overflow (s : State) (w : WandPort) (f : Context → Context) : (s.updateContext w f).overflow = s.overflow := rfl
@[simp] theorem State.updateContext_ports (s : State) (w : WandPort) (f : Context → Context) : (s.updateContext w f).ports = s.ports := rfl

/-! ### State.prompt -/

@[simp] theorem State.prompt_pending (s : State) (w : WandPort) (n : Prompt) : (s.prompt w n).pending = s.pending := rfl
@[simp] theorem State.prompt_pins (s : State) (w : WandPort) (n : Prompt) : (s.prompt w n).pins = s.pins := rfl
@[simp] theorem State.prompt_receiving (s : State) (w : WandPort) (n : Prompt) : (s.prompt w n).receiving = s.receiving := rfl
@[simp] theorem State.prompt_mode (s : State) (w : WandPort) (n : Prompt) : (s.prompt w n).mode = s.mode := rfl
@[simp] theorem State.prompt_config (s : State) (w : WandPort) (n : Prompt) : (s.prompt w n).config = s.config := rfl
@[simp] theorem State.prompt_clock (s : State) (w : WandPort) (n : Prompt) : (s.prompt w n).clock = s.clock := rfl
@[simp] theorem State.prompt_operation (s : State) (w : WandPort) (n : Prompt) : (s.prompt w n).operation = s.operation := rfl
@[simp] theorem State.prompt_resetScheduled (s : State) (w : WandPort) (n : Prompt) : (s.prompt w n).resetScheduled = s.resetScheduled := rfl
@[simp] theorem State.prompt_pool (s : State) (w : WandPort) (n : Prompt) : (s.prompt w n).pool = s.pool := rfl
@[simp] theorem State.prompt_runs (s : State) (w : WandPort) (n : Prompt) : (s.prompt w n).runs = s.runs := rfl
@[simp] theorem State.prompt_passSerial (s : State) (w : WandPort) (n : Prompt) : (s.prompt w n).passSerial = s.passSerial := rfl
@[simp] theorem State.prompt_wands (s : State) (w : WandPort) (n : Prompt) : (s.prompt w n).wands = s.wands := rfl
@[simp] theorem State.prompt_strays (s : State) (w : WandPort) (n : Prompt) : (s.prompt w n).strays = s.strays := rfl
@[simp] theorem State.prompt_discrepancies (s : State) (w : WandPort) (n : Prompt) : (s.prompt w n).discrepancies = s.discrepancies := rfl
@[simp] theorem State.prompt_overflow (s : State) (w : WandPort) (n : Prompt) : (s.prompt w n).overflow = s.overflow := rfl

/-! ### State.notify -/

@[simp] theorem State.notify_pending (s : State) (p : Port) (n : HeldNotice) : (s.notify p n).pending = s.pending := rfl
@[simp] theorem State.notify_pins (s : State) (p : Port) (n : HeldNotice) : (s.notify p n).pins = s.pins := rfl
@[simp] theorem State.notify_receiving (s : State) (p : Port) (n : HeldNotice) : (s.notify p n).receiving = s.receiving := rfl
@[simp] theorem State.notify_mode (s : State) (p : Port) (n : HeldNotice) : (s.notify p n).mode = s.mode := rfl
@[simp] theorem State.notify_config (s : State) (p : Port) (n : HeldNotice) : (s.notify p n).config = s.config := rfl
@[simp] theorem State.notify_clock (s : State) (p : Port) (n : HeldNotice) : (s.notify p n).clock = s.clock := rfl
@[simp] theorem State.notify_operation (s : State) (p : Port) (n : HeldNotice) : (s.notify p n).operation = s.operation := rfl
@[simp] theorem State.notify_resetScheduled (s : State) (p : Port) (n : HeldNotice) : (s.notify p n).resetScheduled = s.resetScheduled := rfl
@[simp] theorem State.notify_pool (s : State) (p : Port) (n : HeldNotice) : (s.notify p n).pool = s.pool := rfl
@[simp] theorem State.notify_runs (s : State) (p : Port) (n : HeldNotice) : (s.notify p n).runs = s.runs := rfl
@[simp] theorem State.notify_passSerial (s : State) (p : Port) (n : HeldNotice) : (s.notify p n).passSerial = s.passSerial := rfl
@[simp] theorem State.notify_wands (s : State) (p : Port) (n : HeldNotice) : (s.notify p n).wands = s.wands := rfl
@[simp] theorem State.notify_strays (s : State) (p : Port) (n : HeldNotice) : (s.notify p n).strays = s.strays := rfl
@[simp] theorem State.notify_discrepancies (s : State) (p : Port) (n : HeldNotice) : (s.notify p n).discrepancies = s.discrepancies := rfl
@[simp] theorem State.notify_overflow (s : State) (p : Port) (n : HeldNotice) : (s.notify p n).overflow = s.overflow := rfl

/-! ### State.enterMode -/

@[simp] theorem State.enterMode_pending (s : State) (m : Mode) : (s.enterMode m).pending = s.pending := rfl
@[simp] theorem State.enterMode_pins (s : State) (m : Mode) : (s.enterMode m).pins = s.pins := rfl
@[simp] theorem State.enterMode_receiving (s : State) (m : Mode) : (s.enterMode m).receiving = s.receiving := rfl
@[simp] theorem State.enterMode_config (s : State) (m : Mode) : (s.enterMode m).config = s.config := rfl
@[simp] theorem State.enterMode_clock (s : State) (m : Mode) : (s.enterMode m).clock = s.clock := rfl
@[simp] theorem State.enterMode_operation (s : State) (m : Mode) : (s.enterMode m).operation = s.operation := rfl
@[simp] theorem State.enterMode_resetScheduled (s : State) (m : Mode) : (s.enterMode m).resetScheduled = s.resetScheduled := rfl
@[simp] theorem State.enterMode_pool (s : State) (m : Mode) : (s.enterMode m).pool = s.pool := rfl
@[simp] theorem State.enterMode_runs (s : State) (m : Mode) : (s.enterMode m).runs = s.runs := rfl
@[simp] theorem State.enterMode_passSerial (s : State) (m : Mode) : (s.enterMode m).passSerial = s.passSerial := rfl
@[simp] theorem State.enterMode_wands (s : State) (m : Mode) : (s.enterMode m).wands = s.wands := rfl
@[simp] theorem State.enterMode_strays (s : State) (m : Mode) : (s.enterMode m).strays = s.strays := rfl
@[simp] theorem State.enterMode_discrepancies (s : State) (m : Mode) : (s.enterMode m).discrepancies = s.discrepancies := rfl
@[simp] theorem State.enterMode_overflow (s : State) (m : Mode) : (s.enterMode m).overflow = s.overflow := rfl

/-! ### State.kick -/

@[simp] theorem State.kick_pending (s : State) : (s.kick).pending = s.pending := rfl
@[simp] theorem State.kick_pins (s : State) : (s.kick).pins = s.pins := rfl
@[simp] theorem State.kick_receiving (s : State) : (s.kick).receiving = s.receiving := rfl
@[simp] theorem State.kick_mode (s : State) : (s.kick).mode = s.mode := rfl
@[simp] theorem State.kick_config (s : State) : (s.kick).config = s.config := rfl
@[simp] theorem State.kick_clock (s : State) : (s.kick).clock = s.clock := rfl
@[simp] theorem State.kick_operation (s : State) : (s.kick).operation = s.operation := rfl
@[simp] theorem State.kick_resetScheduled (s : State) : (s.kick).resetScheduled = s.resetScheduled := rfl
@[simp] theorem State.kick_pool (s : State) : (s.kick).pool = s.pool := rfl
@[simp] theorem State.kick_runs (s : State) : (s.kick).runs = s.runs := rfl
@[simp] theorem State.kick_passSerial (s : State) : (s.kick).passSerial = s.passSerial := rfl
@[simp] theorem State.kick_wands (s : State) : (s.kick).wands = s.wands := rfl
@[simp] theorem State.kick_strays (s : State) : (s.kick).strays = s.strays := rfl
@[simp] theorem State.kick_discrepancies (s : State) : (s.kick).discrepancies = s.discrepancies := rfl
@[simp] theorem State.kick_overflow (s : State) : (s.kick).overflow = s.overflow := rfl

/-! ### State.setRun -/

@[simp] theorem State.setRun_pending (s : State) (r : RunNo) (x : LoadedRun) : (s.setRun r x).pending = s.pending := rfl
@[simp] theorem State.setRun_pins (s : State) (r : RunNo) (x : LoadedRun) : (s.setRun r x).pins = s.pins := rfl
@[simp] theorem State.setRun_receiving (s : State) (r : RunNo) (x : LoadedRun) : (s.setRun r x).receiving = s.receiving := rfl
@[simp] theorem State.setRun_mode (s : State) (r : RunNo) (x : LoadedRun) : (s.setRun r x).mode = s.mode := rfl
@[simp] theorem State.setRun_config (s : State) (r : RunNo) (x : LoadedRun) : (s.setRun r x).config = s.config := rfl
@[simp] theorem State.setRun_clock (s : State) (r : RunNo) (x : LoadedRun) : (s.setRun r x).clock = s.clock := rfl
@[simp] theorem State.setRun_operation (s : State) (r : RunNo) (x : LoadedRun) : (s.setRun r x).operation = s.operation := rfl
@[simp] theorem State.setRun_resetScheduled (s : State) (r : RunNo) (x : LoadedRun) : (s.setRun r x).resetScheduled = s.resetScheduled := rfl
@[simp] theorem State.setRun_pool (s : State) (r : RunNo) (x : LoadedRun) : (s.setRun r x).pool = s.pool := rfl
@[simp] theorem State.setRun_passSerial (s : State) (r : RunNo) (x : LoadedRun) : (s.setRun r x).passSerial = s.passSerial := rfl
@[simp] theorem State.setRun_wands (s : State) (r : RunNo) (x : LoadedRun) : (s.setRun r x).wands = s.wands := rfl
@[simp] theorem State.setRun_strays (s : State) (r : RunNo) (x : LoadedRun) : (s.setRun r x).strays = s.strays := rfl
@[simp] theorem State.setRun_discrepancies (s : State) (r : RunNo) (x : LoadedRun) : (s.setRun r x).discrepancies = s.discrepancies := rfl
@[simp] theorem State.setRun_overflow (s : State) (r : RunNo) (x : LoadedRun) : (s.setRun r x).overflow = s.overflow := rfl
@[simp] theorem State.setRun_ports (s : State) (r : RunNo) (x : LoadedRun) : (s.setRun r x).ports = s.ports := rfl

/-! ### State.setBreak -/

@[simp] theorem State.setBreak_pending (s : State) (p : Port) (low : Bool) : (s.setBreak p low).pending = s.pending := rfl
@[simp] theorem State.setBreak_receiving (s : State) (p : Port) (low : Bool) : (s.setBreak p low).receiving = s.receiving := rfl
@[simp] theorem State.setBreak_mode (s : State) (p : Port) (low : Bool) : (s.setBreak p low).mode = s.mode := rfl
@[simp] theorem State.setBreak_config (s : State) (p : Port) (low : Bool) : (s.setBreak p low).config = s.config := rfl
@[simp] theorem State.setBreak_clock (s : State) (p : Port) (low : Bool) : (s.setBreak p low).clock = s.clock := rfl
@[simp] theorem State.setBreak_operation (s : State) (p : Port) (low : Bool) : (s.setBreak p low).operation = s.operation := rfl
@[simp] theorem State.setBreak_resetScheduled (s : State) (p : Port) (low : Bool) : (s.setBreak p low).resetScheduled = s.resetScheduled := rfl
@[simp] theorem State.setBreak_pool (s : State) (p : Port) (low : Bool) : (s.setBreak p low).pool = s.pool := rfl
@[simp] theorem State.setBreak_runs (s : State) (p : Port) (low : Bool) : (s.setBreak p low).runs = s.runs := rfl
@[simp] theorem State.setBreak_passSerial (s : State) (p : Port) (low : Bool) : (s.setBreak p low).passSerial = s.passSerial := rfl
@[simp] theorem State.setBreak_wands (s : State) (p : Port) (low : Bool) : (s.setBreak p low).wands = s.wands := rfl
@[simp] theorem State.setBreak_strays (s : State) (p : Port) (low : Bool) : (s.setBreak p low).strays = s.strays := rfl
@[simp] theorem State.setBreak_discrepancies (s : State) (p : Port) (low : Bool) : (s.setBreak p low).discrepancies = s.discrepancies := rfl
@[simp] theorem State.setBreak_overflow (s : State) (p : Port) (low : Bool) : (s.setBreak p low).overflow = s.overflow := rfl
@[simp] theorem State.setBreak_ports (s : State) (p : Port) (low : Bool) : (s.setBreak p low).ports = s.ports := rfl

/-! ### State.tickTimers -/

@[simp] theorem State.tickTimers_pending (s : State) : (s.tickTimers).pending = s.pending := rfl
@[simp] theorem State.tickTimers_pins (s : State) : (s.tickTimers).pins = s.pins := rfl
@[simp] theorem State.tickTimers_receiving (s : State) : (s.tickTimers).receiving = s.receiving := rfl
@[simp] theorem State.tickTimers_mode (s : State) : (s.tickTimers).mode = s.mode := rfl
@[simp] theorem State.tickTimers_config (s : State) : (s.tickTimers).config = s.config := rfl
@[simp] theorem State.tickTimers_clock (s : State) : (s.tickTimers).clock = s.clock := rfl
@[simp] theorem State.tickTimers_operation (s : State) : (s.tickTimers).operation = s.operation := rfl
@[simp] theorem State.tickTimers_resetScheduled (s : State) : (s.tickTimers).resetScheduled = s.resetScheduled := rfl
@[simp] theorem State.tickTimers_pool (s : State) : (s.tickTimers).pool = s.pool := rfl
@[simp] theorem State.tickTimers_passSerial (s : State) : (s.tickTimers).passSerial = s.passSerial := rfl
@[simp] theorem State.tickTimers_wands (s : State) : (s.tickTimers).wands = s.wands := rfl
@[simp] theorem State.tickTimers_strays (s : State) : (s.tickTimers).strays = s.strays := rfl
@[simp] theorem State.tickTimers_discrepancies (s : State) : (s.tickTimers).discrepancies = s.discrepancies := rfl
@[simp] theorem State.tickTimers_overflow (s : State) : (s.tickTimers).overflow = s.overflow := rfl
@[simp] theorem State.tickTimers_ports (s : State) : (s.tickTimers).ports = s.ports := rfl

/-! ### State.unload -/

@[simp] theorem State.unload_pending (s : State) (r : RunNo) : (s.unload r).pending = s.pending := rfl
@[simp] theorem State.unload_pins (s : State) (r : RunNo) : (s.unload r).pins = s.pins := rfl
@[simp] theorem State.unload_receiving (s : State) (r : RunNo) : (s.unload r).receiving = s.receiving := rfl
@[simp] theorem State.unload_mode (s : State) (r : RunNo) : (s.unload r).mode = s.mode := rfl
@[simp] theorem State.unload_config (s : State) (r : RunNo) : (s.unload r).config = s.config := rfl
@[simp] theorem State.unload_clock (s : State) (r : RunNo) : (s.unload r).clock = s.clock := rfl
@[simp] theorem State.unload_operation (s : State) (r : RunNo) : (s.unload r).operation = s.operation := rfl
@[simp] theorem State.unload_resetScheduled (s : State) (r : RunNo) : (s.unload r).resetScheduled = s.resetScheduled := rfl
@[simp] theorem State.unload_passSerial (s : State) (r : RunNo) : (s.unload r).passSerial = s.passSerial := rfl
@[simp] theorem State.unload_wands (s : State) (r : RunNo) : (s.unload r).wands = s.wands := rfl
@[simp] theorem State.unload_strays (s : State) (r : RunNo) : (s.unload r).strays = s.strays := rfl
@[simp] theorem State.unload_discrepancies (s : State) (r : RunNo) : (s.unload r).discrepancies = s.discrepancies := rfl
@[simp] theorem State.unload_overflow (s : State) (r : RunNo) : (s.unload r).overflow = s.overflow := rfl
@[simp] theorem State.unload_ports (s : State) (r : RunNo) : (s.unload r).ports = s.ports := rfl

/-! ## The fields an update writes -/

@[simp] theorem State.port_updatePort_self (s : State) (p : Port) (f : LinkPort → LinkPort) :
    (s.updatePort p f).port p = f (s.port p) := by
  simp [State.port, State.updatePort]

theorem State.port_updatePort (s : State) (p q : Port) (f : LinkPort → LinkPort) :
    (s.updatePort p f).port q = if q = p then f (s.port p) else s.port q := by
  simp [State.port, State.updatePort, PortMap.get_set]

theorem State.port_updatePort_ne (s : State) {p q : Port} (f : LinkPort → LinkPort) (h : q ≠ p) :
    (s.updatePort p f).port q = s.port q := by
  simp [State.port_updatePort, h]

theorem State.updatePort_updatePort (s : State) (p : Port) (f g : LinkPort → LinkPort) :
    (s.updatePort p f).updatePort p g = s.updatePort p fun q => g (f q) := by
  simp [State.updatePort]

@[simp] theorem State.port_kick (s : State) (p : Port) : s.kick.port p = (s.port p).choose := by
  simp [State.port, State.kick]

theorem State.port_notify (s : State) (p q : Port) (n : HeldNotice) :
    (s.notify p n).port q = if q = p then (s.port p).raiseHeld n else s.port q :=
  s.port_updatePort p q _

theorem State.port_prompt (s : State) (w : WandPort) (q : Port) (n : Prompt) :
    (s.prompt w n).port q = if q = w.port then (s.port w.port).raisePrompt n else s.port q :=
  s.port_updatePort w.port q _

@[simp] theorem State.enterMode_mode (s : State) (m : Mode) : (s.enterMode m).mode = m := rfl

theorem State.enterMode_eq (s : State) (m : Mode) : s.enterMode m = s.withMode m := rfl

@[simp] theorem State.port_enterMode (s : State) (m : Mode) (p : Port) :
    (s.enterMode m).port p = (s.port p).raiseHeld (.mode m) := by
  simp [State.port, State.enterMode]

@[simp] theorem State.wand_setWand_self (s : State) (w : WandPort) (c : ContextStore) : (s.setWand w c).wand w = c := by
  simp [State.wand, State.setWand]

theorem State.wand_setWand (s : State) (w v : WandPort) (c : ContextStore) :
    (s.setWand w c).wand v = if v = w then c else s.wand v := by
  simp [State.wand, State.setWand, WandMap.get_set]

theorem State.wand_updateContext (s : State) (w v : WandPort) (f : Context → Context) :
    (s.updateContext w f).wand v = if v = w then { s.wand w with current := f (s.wand w).current } else s.wand v := by
  simp [State.updateContext, State.wand_setWand]

/-! ## A port's fields -/

@[simp] theorem LinkPort.raiseHeld_receiver (q : LinkPort) (n : HeldNotice) : (q.raiseHeld n).receiver = q.receiver := rfl
@[simp] theorem LinkPort.raiseHeld_inbox (q : LinkPort) (n : HeldNotice) : (q.raiseHeld n).inbox = q.inbox := rfl
@[simp] theorem LinkPort.raiseHeld_line (q : LinkPort) (n : HeldNotice) : (q.raiseHeld n).line = q.line := rfl
@[simp] theorem LinkPort.raiseHeld_mask (q : LinkPort) (n : HeldNotice) : (q.raiseHeld n).mask = q.mask := rfl
@[simp] theorem LinkPort.raiseHeld_prompts (q : LinkPort) (n : HeldNotice) : (q.raiseHeld n).prompts = q.prompts := rfl
@[simp] theorem LinkPort.raiseHeld_held (q : LinkPort) (n : HeldNotice) : (q.raiseHeld n).held = q.held.raise n := rfl

@[simp] theorem LinkPort.respond_receiver (q : LinkPort) (r : Response) : (q.respond r).receiver = q.receiver := rfl
@[simp] theorem LinkPort.respond_line (q : LinkPort) (r : Response) : (q.respond r).line = q.line := rfl
@[simp] theorem LinkPort.respond_mask (q : LinkPort) (r : Response) : (q.respond r).mask = q.mask := rfl
@[simp] theorem LinkPort.respond_held (q : LinkPort) (r : Response) : (q.respond r).held = q.held := rfl
@[simp] theorem LinkPort.respond_prompts (q : LinkPort) (r : Response) : (q.respond r).prompts = q.prompts := rfl
@[simp] theorem LinkPort.respond_inbox (q : LinkPort) (r : Response) : (q.respond r).inbox = respondFirst r q.inbox := rfl

/-- A prompt raised touches the prompt queue alone. -/
theorem LinkPort.raisePrompt_frame (q : LinkPort) (n : Prompt) :
    q.raisePrompt n = { q with prompts := (q.raisePrompt n).prompts } := by
  unfold LinkPort.raisePrompt
  split_ifs <;> rfl

end Sys2Proof.Machine
end

