-- ==== Sys2Proof/Laws/Frame.lean ====
section
/-! SUPPORT. The frames of the shared operations: the fields that each leaves as they were, from every state. -/
namespace Sys2Proof.Machine

/-! ### State.offer -/

@[simp] theorem State.offer_pending (s : State) (d : Discrepancy) : (s.offer d).pending = s.pending := by
  unfold State.offer; (repeat' split) <;> simp
@[simp] theorem State.offer_pins (s : State) (d : Discrepancy) : (s.offer d).pins = s.pins := by
  unfold State.offer; (repeat' split) <;> simp
@[simp] theorem State.offer_receiving (s : State) (d : Discrepancy) : (s.offer d).receiving = s.receiving := by
  unfold State.offer; (repeat' split) <;> simp
@[simp] theorem State.offer_mode (s : State) (d : Discrepancy) : (s.offer d).mode = s.mode := by
  unfold State.offer; (repeat' split) <;> simp
@[simp] theorem State.offer_config (s : State) (d : Discrepancy) : (s.offer d).config = s.config := by
  unfold State.offer; (repeat' split) <;> simp
@[simp] theorem State.offer_clock (s : State) (d : Discrepancy) : (s.offer d).clock = s.clock := by
  unfold State.offer; (repeat' split) <;> simp
@[simp] theorem State.offer_operation (s : State) (d : Discrepancy) : (s.offer d).operation = s.operation := by
  unfold State.offer; (repeat' split) <;> simp
@[simp] theorem State.offer_resetScheduled (s : State) (d : Discrepancy) : (s.offer d).resetScheduled = s.resetScheduled := by
  unfold State.offer; (repeat' split) <;> simp
@[simp] theorem State.offer_pool (s : State) (d : Discrepancy) : (s.offer d).pool = s.pool := by
  unfold State.offer; (repeat' split) <;> simp
@[simp] theorem State.offer_runs (s : State) (d : Discrepancy) : (s.offer d).runs = s.runs := by
  unfold State.offer; (repeat' split) <;> simp
@[simp] theorem State.offer_passSerial (s : State) (d : Discrepancy) : (s.offer d).passSerial = s.passSerial := by
  unfold State.offer; (repeat' split) <;> simp
@[simp] theorem State.offer_wands (s : State) (d : Discrepancy) : (s.offer d).wands = s.wands := by
  unfold State.offer; (repeat' split) <;> simp
@[simp] theorem State.offer_strays (s : State) (d : Discrepancy) : (s.offer d).strays = s.strays := by
  unfold State.offer; (repeat' split) <;> simp

/-! ### State.raiseOpDone -/

@[simp] theorem State.raiseOpDone_pending (s : State) (op : Operation) : (s.raiseOpDone op).pending = s.pending := by
  unfold State.raiseOpDone; split <;> rfl
@[simp] theorem State.raiseOpDone_pins (s : State) (op : Operation) : (s.raiseOpDone op).pins = s.pins := by
  unfold State.raiseOpDone; split <;> rfl
@[simp] theorem State.raiseOpDone_receiving (s : State) (op : Operation) : (s.raiseOpDone op).receiving = s.receiving := by
  unfold State.raiseOpDone; split <;> rfl
@[simp] theorem State.raiseOpDone_mode (s : State) (op : Operation) : (s.raiseOpDone op).mode = s.mode := by
  unfold State.raiseOpDone; split <;> rfl
@[simp] theorem State.raiseOpDone_config (s : State) (op : Operation) : (s.raiseOpDone op).config = s.config := by
  unfold State.raiseOpDone; split <;> rfl
@[simp] theorem State.raiseOpDone_clock (s : State) (op : Operation) : (s.raiseOpDone op).clock = s.clock := by
  unfold State.raiseOpDone; split <;> rfl
@[simp] theorem State.raiseOpDone_operation (s : State) (op : Operation) : (s.raiseOpDone op).operation = s.operation := by
  unfold State.raiseOpDone; split <;> rfl
@[simp] theorem State.raiseOpDone_resetScheduled (s : State) (op : Operation) : (s.raiseOpDone op).resetScheduled = s.resetScheduled := by
  unfold State.raiseOpDone; split <;> rfl
@[simp] theorem State.raiseOpDone_pool (s : State) (op : Operation) : (s.raiseOpDone op).pool = s.pool := by
  unfold State.raiseOpDone; split <;> rfl
@[simp] theorem State.raiseOpDone_runs (s : State) (op : Operation) : (s.raiseOpDone op).runs = s.runs := by
  unfold State.raiseOpDone; split <;> rfl
@[simp] theorem State.raiseOpDone_passSerial (s : State) (op : Operation) : (s.raiseOpDone op).passSerial = s.passSerial := by
  unfold State.raiseOpDone; split <;> rfl
@[simp] theorem State.raiseOpDone_wands (s : State) (op : Operation) : (s.raiseOpDone op).wands = s.wands := by
  unfold State.raiseOpDone; split <;> rfl
@[simp] theorem State.raiseOpDone_strays (s : State) (op : Operation) : (s.raiseOpDone op).strays = s.strays := by
  unfold State.raiseOpDone; split <;> rfl
@[simp] theorem State.raiseOpDone_discrepancies (s : State) (op : Operation) : (s.raiseOpDone op).discrepancies = s.discrepancies := by
  unfold State.raiseOpDone; split <;> rfl
@[simp] theorem State.raiseOpDone_overflow (s : State) (op : Operation) : (s.raiseOpDone op).overflow = s.overflow := by
  unfold State.raiseOpDone; split <;> rfl

/-! ### State.updateRun -/

@[simp] theorem State.updateRun_pending (s : State) (r : RunNo) (f : LoadedRun → LoadedRun) : (s.updateRun r f).pending = s.pending := by
  unfold State.updateRun; (repeat' split) <;> simp
@[simp] theorem State.updateRun_pins (s : State) (r : RunNo) (f : LoadedRun → LoadedRun) : (s.updateRun r f).pins = s.pins := by
  unfold State.updateRun; (repeat' split) <;> simp
@[simp] theorem State.updateRun_receiving (s : State) (r : RunNo) (f : LoadedRun → LoadedRun) : (s.updateRun r f).receiving = s.receiving := by
  unfold State.updateRun; (repeat' split) <;> simp
@[simp] theorem State.updateRun_mode (s : State) (r : RunNo) (f : LoadedRun → LoadedRun) : (s.updateRun r f).mode = s.mode := by
  unfold State.updateRun; (repeat' split) <;> simp
@[simp] theorem State.updateRun_config (s : State) (r : RunNo) (f : LoadedRun → LoadedRun) : (s.updateRun r f).config = s.config := by
  unfold State.updateRun; (repeat' split) <;> simp
@[simp] theorem State.updateRun_clock (s : State) (r : RunNo) (f : LoadedRun → LoadedRun) : (s.updateRun r f).clock = s.clock := by
  unfold State.updateRun; (repeat' split) <;> simp
@[simp] theorem State.updateRun_operation (s : State) (r : RunNo) (f : LoadedRun → LoadedRun) : (s.updateRun r f).operation = s.operation := by
  unfold State.updateRun; (repeat' split) <;> simp
@[simp] theorem State.updateRun_resetScheduled (s : State) (r : RunNo) (f : LoadedRun → LoadedRun) : (s.updateRun r f).resetScheduled = s.resetScheduled := by
  unfold State.updateRun; (repeat' split) <;> simp
@[simp] theorem State.updateRun_pool (s : State) (r : RunNo) (f : LoadedRun → LoadedRun) : (s.updateRun r f).pool = s.pool := by
  unfold State.updateRun; (repeat' split) <;> simp
@[simp] theorem State.updateRun_passSerial (s : State) (r : RunNo) (f : LoadedRun → LoadedRun) : (s.updateRun r f).passSerial = s.passSerial := by
  unfold State.updateRun; (repeat' split) <;> simp
@[simp] theorem State.updateRun_wands (s : State) (r : RunNo) (f : LoadedRun → LoadedRun) : (s.updateRun r f).wands = s.wands := by
  unfold State.updateRun; (repeat' split) <;> simp
@[simp] theorem State.updateRun_strays (s : State) (r : RunNo) (f : LoadedRun → LoadedRun) : (s.updateRun r f).strays = s.strays := by
  unfold State.updateRun; (repeat' split) <;> simp
@[simp] theorem State.updateRun_discrepancies (s : State) (r : RunNo) (f : LoadedRun → LoadedRun) : (s.updateRun r f).discrepancies = s.discrepancies := by
  unfold State.updateRun; (repeat' split) <;> simp
@[simp] theorem State.updateRun_overflow (s : State) (r : RunNo) (f : LoadedRun → LoadedRun) : (s.updateRun r f).overflow = s.overflow := by
  unfold State.updateRun; (repeat' split) <;> simp
@[simp] theorem State.updateRun_ports (s : State) (r : RunNo) (f : LoadedRun → LoadedRun) : (s.updateRun r f).ports = s.ports := by
  unfold State.updateRun; (repeat' split) <;> simp

/-! ### State.updateClaim -/

@[simp] theorem State.updateClaim_pending (s : State) (r : RunNo) (f : Claim → Claim) : (s.updateClaim r f).pending = s.pending := by
  simp [State.updateClaim]
@[simp] theorem State.updateClaim_pins (s : State) (r : RunNo) (f : Claim → Claim) : (s.updateClaim r f).pins = s.pins := by
  simp [State.updateClaim]
@[simp] theorem State.updateClaim_receiving (s : State) (r : RunNo) (f : Claim → Claim) : (s.updateClaim r f).receiving = s.receiving := by
  simp [State.updateClaim]
@[simp] theorem State.updateClaim_mode (s : State) (r : RunNo) (f : Claim → Claim) : (s.updateClaim r f).mode = s.mode := by
  simp [State.updateClaim]
@[simp] theorem State.updateClaim_config (s : State) (r : RunNo) (f : Claim → Claim) : (s.updateClaim r f).config = s.config := by
  simp [State.updateClaim]
@[simp] theorem State.updateClaim_clock (s : State) (r : RunNo) (f : Claim → Claim) : (s.updateClaim r f).clock = s.clock := by
  simp [State.updateClaim]
@[simp] theorem State.updateClaim_operation (s : State) (r : RunNo) (f : Claim → Claim) : (s.updateClaim r f).operation = s.operation := by
  simp [State.updateClaim]
@[simp] theorem State.updateClaim_resetScheduled (s : State) (r : RunNo) (f : Claim → Claim) : (s.updateClaim r f).resetScheduled = s.resetScheduled := by
  simp [State.updateClaim]
@[simp] theorem State.updateClaim_pool (s : State) (r : RunNo) (f : Claim → Claim) : (s.updateClaim r f).pool = s.pool := by
  simp [State.updateClaim]
@[simp] theorem State.updateClaim_passSerial (s : State) (r : RunNo) (f : Claim → Claim) : (s.updateClaim r f).passSerial = s.passSerial := by
  simp [State.updateClaim]
@[simp] theorem State.updateClaim_wands (s : State) (r : RunNo) (f : Claim → Claim) : (s.updateClaim r f).wands = s.wands := by
  simp [State.updateClaim]
@[simp] theorem State.updateClaim_strays (s : State) (r : RunNo) (f : Claim → Claim) : (s.updateClaim r f).strays = s.strays := by
  simp [State.updateClaim]
@[simp] theorem State.updateClaim_discrepancies (s : State) (r : RunNo) (f : Claim → Claim) : (s.updateClaim r f).discrepancies = s.discrepancies := by
  simp [State.updateClaim]
@[simp] theorem State.updateClaim_overflow (s : State) (r : RunNo) (f : Claim → Claim) : (s.updateClaim r f).overflow = s.overflow := by
  simp [State.updateClaim]
@[simp] theorem State.updateClaim_ports (s : State) (r : RunNo) (f : Claim → Claim) : (s.updateClaim r f).ports = s.ports := by
  simp [State.updateClaim]

/-! ### State.updatePass -/

@[simp] theorem State.updatePass_pending (s : State) (r : RunNo) (f : PassRecord → PassRecord) : (s.updatePass r f).pending = s.pending := by
  simp [State.updatePass]
@[simp] theorem State.updatePass_pins (s : State) (r : RunNo) (f : PassRecord → PassRecord) : (s.updatePass r f).pins = s.pins := by
  simp [State.updatePass]
@[simp] theorem State.updatePass_receiving (s : State) (r : RunNo) (f : PassRecord → PassRecord) : (s.updatePass r f).receiving = s.receiving := by
  simp [State.updatePass]
@[simp] theorem State.updatePass_mode (s : State) (r : RunNo) (f : PassRecord → PassRecord) : (s.updatePass r f).mode = s.mode := by
  simp [State.updatePass]
@[simp] theorem State.updatePass_config (s : State) (r : RunNo) (f : PassRecord → PassRecord) : (s.updatePass r f).config = s.config := by
  simp [State.updatePass]
@[simp] theorem State.updatePass_clock (s : State) (r : RunNo) (f : PassRecord → PassRecord) : (s.updatePass r f).clock = s.clock := by
  simp [State.updatePass]
@[simp] theorem State.updatePass_operation (s : State) (r : RunNo) (f : PassRecord → PassRecord) : (s.updatePass r f).operation = s.operation := by
  simp [State.updatePass]
@[simp] theorem State.updatePass_resetScheduled (s : State) (r : RunNo) (f : PassRecord → PassRecord) : (s.updatePass r f).resetScheduled = s.resetScheduled := by
  simp [State.updatePass]
@[simp] theorem State.updatePass_pool (s : State) (r : RunNo) (f : PassRecord → PassRecord) : (s.updatePass r f).pool = s.pool := by
  simp [State.updatePass]
@[simp] theorem State.updatePass_passSerial (s : State) (r : RunNo) (f : PassRecord → PassRecord) : (s.updatePass r f).passSerial = s.passSerial := by
  simp [State.updatePass]
@[simp] theorem State.updatePass_wands (s : State) (r : RunNo) (f : PassRecord → PassRecord) : (s.updatePass r f).wands = s.wands := by
  simp [State.updatePass]
@[simp] theorem State.updatePass_strays (s : State) (r : RunNo) (f : PassRecord → PassRecord) : (s.updatePass r f).strays = s.strays := by
  simp [State.updatePass]
@[simp] theorem State.updatePass_discrepancies (s : State) (r : RunNo) (f : PassRecord → PassRecord) : (s.updatePass r f).discrepancies = s.discrepancies := by
  simp [State.updatePass]
@[simp] theorem State.updatePass_overflow (s : State) (r : RunNo) (f : PassRecord → PassRecord) : (s.updatePass r f).overflow = s.overflow := by
  simp [State.updatePass]
@[simp] theorem State.updatePass_ports (s : State) (r : RunNo) (f : PassRecord → PassRecord) : (s.updatePass r f).ports = s.ports := by
  simp [State.updatePass]

/-! ### State.count -/

@[simp] theorem State.count_pending (s : State) (r : RunNo) (k : Counter) : (s.count r k).pending = s.pending := by
  simp [State.count]
@[simp] theorem State.count_pins (s : State) (r : RunNo) (k : Counter) : (s.count r k).pins = s.pins := by
  simp [State.count]
@[simp] theorem State.count_receiving (s : State) (r : RunNo) (k : Counter) : (s.count r k).receiving = s.receiving := by
  simp [State.count]
@[simp] theorem State.count_mode (s : State) (r : RunNo) (k : Counter) : (s.count r k).mode = s.mode := by
  simp [State.count]
@[simp] theorem State.count_config (s : State) (r : RunNo) (k : Counter) : (s.count r k).config = s.config := by
  simp [State.count]
@[simp] theorem State.count_clock (s : State) (r : RunNo) (k : Counter) : (s.count r k).clock = s.clock := by
  simp [State.count]
@[simp] theorem State.count_operation (s : State) (r : RunNo) (k : Counter) : (s.count r k).operation = s.operation := by
  simp [State.count]
@[simp] theorem State.count_resetScheduled (s : State) (r : RunNo) (k : Counter) : (s.count r k).resetScheduled = s.resetScheduled := by
  simp [State.count]
@[simp] theorem State.count_pool (s : State) (r : RunNo) (k : Counter) : (s.count r k).pool = s.pool := by
  simp [State.count]
@[simp] theorem State.count_passSerial (s : State) (r : RunNo) (k : Counter) : (s.count r k).passSerial = s.passSerial := by
  simp [State.count]
@[simp] theorem State.count_wands (s : State) (r : RunNo) (k : Counter) : (s.count r k).wands = s.wands := by
  simp [State.count]
@[simp] theorem State.count_strays (s : State) (r : RunNo) (k : Counter) : (s.count r k).strays = s.strays := by
  simp [State.count]
@[simp] theorem State.count_discrepancies (s : State) (r : RunNo) (k : Counter) : (s.count r k).discrepancies = s.discrepancies := by
  simp [State.count]
@[simp] theorem State.count_overflow (s : State) (r : RunNo) (k : Counter) : (s.count r k).overflow = s.overflow := by
  simp [State.count]
@[simp] theorem State.count_ports (s : State) (r : RunNo) (k : Counter) : (s.count r k).ports = s.ports := by
  simp [State.count]

/-! ### State.updateEntry -/

@[simp] theorem State.updateEntry_pending (s : State) (i : Nat) (f : Entry → Entry) : (s.updateEntry i f).pending = s.pending := by
  unfold State.updateEntry; (repeat' split) <;> simp
@[simp] theorem State.updateEntry_pins (s : State) (i : Nat) (f : Entry → Entry) : (s.updateEntry i f).pins = s.pins := by
  unfold State.updateEntry; (repeat' split) <;> simp
@[simp] theorem State.updateEntry_receiving (s : State) (i : Nat) (f : Entry → Entry) : (s.updateEntry i f).receiving = s.receiving := by
  unfold State.updateEntry; (repeat' split) <;> simp
@[simp] theorem State.updateEntry_mode (s : State) (i : Nat) (f : Entry → Entry) : (s.updateEntry i f).mode = s.mode := by
  unfold State.updateEntry; (repeat' split) <;> simp
@[simp] theorem State.updateEntry_config (s : State) (i : Nat) (f : Entry → Entry) : (s.updateEntry i f).config = s.config := by
  unfold State.updateEntry; (repeat' split) <;> simp
@[simp] theorem State.updateEntry_clock (s : State) (i : Nat) (f : Entry → Entry) : (s.updateEntry i f).clock = s.clock := by
  unfold State.updateEntry; (repeat' split) <;> simp
@[simp] theorem State.updateEntry_operation (s : State) (i : Nat) (f : Entry → Entry) : (s.updateEntry i f).operation = s.operation := by
  unfold State.updateEntry; (repeat' split) <;> simp
@[simp] theorem State.updateEntry_resetScheduled (s : State) (i : Nat) (f : Entry → Entry) : (s.updateEntry i f).resetScheduled = s.resetScheduled := by
  unfold State.updateEntry; (repeat' split) <;> simp
@[simp] theorem State.updateEntry_runs (s : State) (i : Nat) (f : Entry → Entry) : (s.updateEntry i f).runs = s.runs := by
  unfold State.updateEntry; (repeat' split) <;> simp
@[simp] theorem State.updateEntry_passSerial (s : State) (i : Nat) (f : Entry → Entry) : (s.updateEntry i f).passSerial = s.passSerial := by
  unfold State.updateEntry; (repeat' split) <;> simp
@[simp] theorem State.updateEntry_wands (s : State) (i : Nat) (f : Entry → Entry) : (s.updateEntry i f).wands = s.wands := by
  unfold State.updateEntry; (repeat' split) <;> simp
@[simp] theorem State.updateEntry_strays (s : State) (i : Nat) (f : Entry → Entry) : (s.updateEntry i f).strays = s.strays := by
  unfold State.updateEntry; (repeat' split) <;> simp
@[simp] theorem State.updateEntry_discrepancies (s : State) (i : Nat) (f : Entry → Entry) : (s.updateEntry i f).discrepancies = s.discrepancies := by
  unfold State.updateEntry; (repeat' split) <;> simp
@[simp] theorem State.updateEntry_overflow (s : State) (i : Nat) (f : Entry → Entry) : (s.updateEntry i f).overflow = s.overflow := by
  unfold State.updateEntry; (repeat' split) <;> simp
@[simp] theorem State.updateEntry_ports (s : State) (i : Nat) (f : Entry → Entry) : (s.updateEntry i f).ports = s.ports := by
  unfold State.updateEntry; (repeat' split) <;> simp

/-! ### State.setStatus -/

@[simp] theorem State.setStatus_pending (s : State) (i : Nat) (new : Status) : (s.setStatus i new).pending = s.pending := by
  unfold State.setStatus; dsimp only; (repeat' split) <;> simp
@[simp] theorem State.setStatus_pins (s : State) (i : Nat) (new : Status) : (s.setStatus i new).pins = s.pins := by
  unfold State.setStatus; dsimp only; (repeat' split) <;> simp
@[simp] theorem State.setStatus_receiving (s : State) (i : Nat) (new : Status) : (s.setStatus i new).receiving = s.receiving := by
  unfold State.setStatus; dsimp only; (repeat' split) <;> simp
@[simp] theorem State.setStatus_mode (s : State) (i : Nat) (new : Status) : (s.setStatus i new).mode = s.mode := by
  unfold State.setStatus; dsimp only; (repeat' split) <;> simp
@[simp] theorem State.setStatus_config (s : State) (i : Nat) (new : Status) : (s.setStatus i new).config = s.config := by
  unfold State.setStatus; dsimp only; (repeat' split) <;> simp
@[simp] theorem State.setStatus_clock (s : State) (i : Nat) (new : Status) : (s.setStatus i new).clock = s.clock := by
  unfold State.setStatus; dsimp only; (repeat' split) <;> simp
@[simp] theorem State.setStatus_operation (s : State) (i : Nat) (new : Status) : (s.setStatus i new).operation = s.operation := by
  unfold State.setStatus; dsimp only; (repeat' split) <;> simp
@[simp] theorem State.setStatus_resetScheduled (s : State) (i : Nat) (new : Status) : (s.setStatus i new).resetScheduled = s.resetScheduled := by
  unfold State.setStatus; dsimp only; (repeat' split) <;> simp
@[simp] theorem State.setStatus_passSerial (s : State) (i : Nat) (new : Status) : (s.setStatus i new).passSerial = s.passSerial := by
  unfold State.setStatus; dsimp only; (repeat' split) <;> simp
@[simp] theorem State.setStatus_wands (s : State) (i : Nat) (new : Status) : (s.setStatus i new).wands = s.wands := by
  unfold State.setStatus; dsimp only; (repeat' split) <;> simp
@[simp] theorem State.setStatus_strays (s : State) (i : Nat) (new : Status) : (s.setStatus i new).strays = s.strays := by
  unfold State.setStatus; dsimp only; (repeat' split) <;> simp
@[simp] theorem State.setStatus_discrepancies (s : State) (i : Nat) (new : Status) : (s.setStatus i new).discrepancies = s.discrepancies := by
  unfold State.setStatus; dsimp only; (repeat' split) <;> simp
@[simp] theorem State.setStatus_overflow (s : State) (i : Nat) (new : Status) : (s.setStatus i new).overflow = s.overflow := by
  unfold State.setStatus; dsimp only; (repeat' split) <;> simp
@[simp] theorem State.setStatus_ports (s : State) (i : Nat) (new : Status) : (s.setStatus i new).ports = s.ports := by
  unfold State.setStatus; dsimp only; (repeat' split) <;> simp

/-! ### State.withdraw -/

@[simp] theorem State.withdraw_pending (s : State) (i : Nat) : (s.withdraw i).pending = s.pending := by
  unfold State.withdraw; (repeat' split) <;> simp
@[simp] theorem State.withdraw_pins (s : State) (i : Nat) : (s.withdraw i).pins = s.pins := by
  unfold State.withdraw; (repeat' split) <;> simp
@[simp] theorem State.withdraw_receiving (s : State) (i : Nat) : (s.withdraw i).receiving = s.receiving := by
  unfold State.withdraw; (repeat' split) <;> simp
@[simp] theorem State.withdraw_mode (s : State) (i : Nat) : (s.withdraw i).mode = s.mode := by
  unfold State.withdraw; (repeat' split) <;> simp
@[simp] theorem State.withdraw_config (s : State) (i : Nat) : (s.withdraw i).config = s.config := by
  unfold State.withdraw; (repeat' split) <;> simp
@[simp] theorem State.withdraw_clock (s : State) (i : Nat) : (s.withdraw i).clock = s.clock := by
  unfold State.withdraw; (repeat' split) <;> simp
@[simp] theorem State.withdraw_operation (s : State) (i : Nat) : (s.withdraw i).operation = s.operation := by
  unfold State.withdraw; (repeat' split) <;> simp
@[simp] theorem State.withdraw_resetScheduled (s : State) (i : Nat) : (s.withdraw i).resetScheduled = s.resetScheduled := by
  unfold State.withdraw; (repeat' split) <;> simp
@[simp] theorem State.withdraw_pool (s : State) (i : Nat) : (s.withdraw i).pool = s.pool := by
  unfold State.withdraw; (repeat' split) <;> simp
@[simp] theorem State.withdraw_passSerial (s : State) (i : Nat) : (s.withdraw i).passSerial = s.passSerial := by
  unfold State.withdraw; (repeat' split) <;> simp
@[simp] theorem State.withdraw_wands (s : State) (i : Nat) : (s.withdraw i).wands = s.wands := by
  unfold State.withdraw; (repeat' split) <;> simp
@[simp] theorem State.withdraw_strays (s : State) (i : Nat) : (s.withdraw i).strays = s.strays := by
  unfold State.withdraw; (repeat' split) <;> simp
@[simp] theorem State.withdraw_discrepancies (s : State) (i : Nat) : (s.withdraw i).discrepancies = s.discrepancies := by
  unfold State.withdraw; (repeat' split) <;> simp
@[simp] theorem State.withdraw_overflow (s : State) (i : Nat) : (s.withdraw i).overflow = s.overflow := by
  unfold State.withdraw; (repeat' split) <;> simp
@[simp] theorem State.withdraw_ports (s : State) (i : Nat) : (s.withdraw i).ports = s.ports := by
  unfold State.withdraw; (repeat' split) <;> simp

/-! ### State.abandon -/

@[simp] theorem State.abandon_pending (s : State) (r : RunNo) (y : Reason) : (s.abandon r y).pending = s.pending := by
  unfold State.abandon; dsimp only; (repeat' split) <;> simp
@[simp] theorem State.abandon_pins (s : State) (r : RunNo) (y : Reason) : (s.abandon r y).pins = s.pins := by
  unfold State.abandon; dsimp only; (repeat' split) <;> simp
@[simp] theorem State.abandon_receiving (s : State) (r : RunNo) (y : Reason) : (s.abandon r y).receiving = s.receiving := by
  unfold State.abandon; dsimp only; (repeat' split) <;> simp
@[simp] theorem State.abandon_mode (s : State) (r : RunNo) (y : Reason) : (s.abandon r y).mode = s.mode := by
  unfold State.abandon; dsimp only; (repeat' split) <;> simp
@[simp] theorem State.abandon_config (s : State) (r : RunNo) (y : Reason) : (s.abandon r y).config = s.config := by
  unfold State.abandon; dsimp only; (repeat' split) <;> simp
@[simp] theorem State.abandon_clock (s : State) (r : RunNo) (y : Reason) : (s.abandon r y).clock = s.clock := by
  unfold State.abandon; dsimp only; (repeat' split) <;> simp
@[simp] theorem State.abandon_operation (s : State) (r : RunNo) (y : Reason) : (s.abandon r y).operation = s.operation := by
  unfold State.abandon; dsimp only; (repeat' split) <;> simp
@[simp] theorem State.abandon_resetScheduled (s : State) (r : RunNo) (y : Reason) : (s.abandon r y).resetScheduled = s.resetScheduled := by
  unfold State.abandon; dsimp only; (repeat' split) <;> simp
@[simp] theorem State.abandon_pool (s : State) (r : RunNo) (y : Reason) : (s.abandon r y).pool = s.pool := by
  unfold State.abandon; dsimp only; (repeat' split) <;> simp
@[simp] theorem State.abandon_passSerial (s : State) (r : RunNo) (y : Reason) : (s.abandon r y).passSerial = s.passSerial := by
  unfold State.abandon; dsimp only; (repeat' split) <;> simp
@[simp] theorem State.abandon_strays (s : State) (r : RunNo) (y : Reason) : (s.abandon r y).strays = s.strays := by
  unfold State.abandon; dsimp only; (repeat' split) <;> simp

/-! ### State.releaseClaim -/

@[simp] theorem State.releaseClaim_pending (s : State) (r : RunNo) (y : Reason) : (s.releaseClaim r y).pending = s.pending := by
  unfold State.releaseClaim; (repeat' split) <;> simp
@[simp] theorem State.releaseClaim_pins (s : State) (r : RunNo) (y : Reason) : (s.releaseClaim r y).pins = s.pins := by
  unfold State.releaseClaim; (repeat' split) <;> simp
@[simp] theorem State.releaseClaim_receiving (s : State) (r : RunNo) (y : Reason) : (s.releaseClaim r y).receiving = s.receiving := by
  unfold State.releaseClaim; (repeat' split) <;> simp
@[simp] theorem State.releaseClaim_mode (s : State) (r : RunNo) (y : Reason) : (s.releaseClaim r y).mode = s.mode := by
  unfold State.releaseClaim; (repeat' split) <;> simp
@[simp] theorem State.releaseClaim_config (s : State) (r : RunNo) (y : Reason) : (s.releaseClaim r y).config = s.config := by
  unfold State.releaseClaim; (repeat' split) <;> simp
@[simp] theorem State.releaseClaim_clock (s : State) (r : RunNo) (y : Reason) : (s.releaseClaim r y).clock = s.clock := by
  unfold State.releaseClaim; (repeat' split) <;> simp
@[simp] theorem State.releaseClaim_operation (s : State) (r : RunNo) (y : Reason) : (s.releaseClaim r y).operation = s.operation := by
  unfold State.releaseClaim; (repeat' split) <;> simp
@[simp] theorem State.releaseClaim_resetScheduled (s : State) (r : RunNo) (y : Reason) : (s.releaseClaim r y).resetScheduled = s.resetScheduled := by
  unfold State.releaseClaim; (repeat' split) <;> simp
@[simp] theorem State.releaseClaim_pool (s : State) (r : RunNo) (y : Reason) : (s.releaseClaim r y).pool = s.pool := by
  unfold State.releaseClaim; (repeat' split) <;> simp
@[simp] theorem State.releaseClaim_passSerial (s : State) (r : RunNo) (y : Reason) : (s.releaseClaim r y).passSerial = s.passSerial := by
  unfold State.releaseClaim; (repeat' split) <;> simp
@[simp] theorem State.releaseClaim_strays (s : State) (r : RunNo) (y : Reason) : (s.releaseClaim r y).strays = s.strays := by
  unfold State.releaseClaim; (repeat' split) <;> simp

/-! ### State.receive -/

@[simp] theorem State.receive_pending (s : State) (p : Port) (bytes : List Byte) : (s.receive p bytes).pending = s.pending := by
  unfold State.receive; (repeat' split) <;> simp
@[simp] theorem State.receive_pins (s : State) (p : Port) (bytes : List Byte) : (s.receive p bytes).pins = s.pins := by
  unfold State.receive; (repeat' split) <;> simp
@[simp] theorem State.receive_receiving (s : State) (p : Port) (bytes : List Byte) : (s.receive p bytes).receiving = s.receiving := by
  unfold State.receive; (repeat' split) <;> simp
@[simp] theorem State.receive_mode (s : State) (p : Port) (bytes : List Byte) : (s.receive p bytes).mode = s.mode := by
  unfold State.receive; (repeat' split) <;> simp
@[simp] theorem State.receive_config (s : State) (p : Port) (bytes : List Byte) : (s.receive p bytes).config = s.config := by
  unfold State.receive; (repeat' split) <;> simp
@[simp] theorem State.receive_clock (s : State) (p : Port) (bytes : List Byte) : (s.receive p bytes).clock = s.clock := by
  unfold State.receive; (repeat' split) <;> simp
@[simp] theorem State.receive_operation (s : State) (p : Port) (bytes : List Byte) : (s.receive p bytes).operation = s.operation := by
  unfold State.receive; (repeat' split) <;> simp
@[simp] theorem State.receive_resetScheduled (s : State) (p : Port) (bytes : List Byte) : (s.receive p bytes).resetScheduled = s.resetScheduled := by
  unfold State.receive; (repeat' split) <;> simp
@[simp] theorem State.receive_pool (s : State) (p : Port) (bytes : List Byte) : (s.receive p bytes).pool = s.pool := by
  unfold State.receive; (repeat' split) <;> simp
@[simp] theorem State.receive_runs (s : State) (p : Port) (bytes : List Byte) : (s.receive p bytes).runs = s.runs := by
  unfold State.receive; (repeat' split) <;> simp
@[simp] theorem State.receive_passSerial (s : State) (p : Port) (bytes : List Byte) : (s.receive p bytes).passSerial = s.passSerial := by
  unfold State.receive; (repeat' split) <;> simp
@[simp] theorem State.receive_wands (s : State) (p : Port) (bytes : List Byte) : (s.receive p bytes).wands = s.wands := by
  unfold State.receive; (repeat' split) <;> simp
@[simp] theorem State.receive_strays (s : State) (p : Port) (bytes : List Byte) : (s.receive p bytes).strays = s.strays := by
  unfold State.receive; (repeat' split) <;> simp
@[simp] theorem State.receive_discrepancies (s : State) (p : Port) (bytes : List Byte) : (s.receive p bytes).discrepancies = s.discrepancies := by
  unfold State.receive; (repeat' split) <;> simp
@[simp] theorem State.receive_overflow (s : State) (p : Port) (bytes : List Byte) : (s.receive p bytes).overflow = s.overflow := by
  unfold State.receive; (repeat' split) <;> simp

/-! ### State.receiveFrame -/

@[simp] theorem State.receiveFrame_pending (s : State) (p : Port) (bytes : List Byte) : (s.receiveFrame p bytes).pending = s.pending := by
  simp [State.receiveFrame]
@[simp] theorem State.receiveFrame_pins (s : State) (p : Port) (bytes : List Byte) : (s.receiveFrame p bytes).pins = s.pins := by
  simp [State.receiveFrame]
@[simp] theorem State.receiveFrame_receiving (s : State) (p : Port) (bytes : List Byte) : (s.receiveFrame p bytes).receiving = s.receiving := by
  simp [State.receiveFrame]
@[simp] theorem State.receiveFrame_mode (s : State) (p : Port) (bytes : List Byte) : (s.receiveFrame p bytes).mode = s.mode := by
  simp [State.receiveFrame]
@[simp] theorem State.receiveFrame_config (s : State) (p : Port) (bytes : List Byte) : (s.receiveFrame p bytes).config = s.config := by
  simp [State.receiveFrame]
@[simp] theorem State.receiveFrame_clock (s : State) (p : Port) (bytes : List Byte) : (s.receiveFrame p bytes).clock = s.clock := by
  simp [State.receiveFrame]
@[simp] theorem State.receiveFrame_operation (s : State) (p : Port) (bytes : List Byte) : (s.receiveFrame p bytes).operation = s.operation := by
  simp [State.receiveFrame]
@[simp] theorem State.receiveFrame_resetScheduled (s : State) (p : Port) (bytes : List Byte) : (s.receiveFrame p bytes).resetScheduled = s.resetScheduled := by
  simp [State.receiveFrame]
@[simp] theorem State.receiveFrame_pool (s : State) (p : Port) (bytes : List Byte) : (s.receiveFrame p bytes).pool = s.pool := by
  simp [State.receiveFrame]
@[simp] theorem State.receiveFrame_runs (s : State) (p : Port) (bytes : List Byte) : (s.receiveFrame p bytes).runs = s.runs := by
  simp [State.receiveFrame]
@[simp] theorem State.receiveFrame_passSerial (s : State) (p : Port) (bytes : List Byte) : (s.receiveFrame p bytes).passSerial = s.passSerial := by
  simp [State.receiveFrame]
@[simp] theorem State.receiveFrame_wands (s : State) (p : Port) (bytes : List Byte) : (s.receiveFrame p bytes).wands = s.wands := by
  simp [State.receiveFrame]
@[simp] theorem State.receiveFrame_strays (s : State) (p : Port) (bytes : List Byte) : (s.receiveFrame p bytes).strays = s.strays := by
  simp [State.receiveFrame]
@[simp] theorem State.receiveFrame_discrepancies (s : State) (p : Port) (bytes : List Byte) : (s.receiveFrame p bytes).discrepancies = s.discrepancies := by
  simp [State.receiveFrame]
@[simp] theorem State.receiveFrame_overflow (s : State) (p : Port) (bytes : List Byte) : (s.receiveFrame p bytes).overflow = s.overflow := by
  simp [State.receiveFrame]

/-! ### State.arrived -/

@[simp] theorem State.arrived_pending (s : State) (c : Instr) : (s.arrived c).pending = s.pending := by
  unfold State.arrived; (repeat' split) <;> simp
@[simp] theorem State.arrived_pins (s : State) (c : Instr) : (s.arrived c).pins = s.pins := by
  unfold State.arrived; (repeat' split) <;> simp
@[simp] theorem State.arrived_receiving (s : State) (c : Instr) : (s.arrived c).receiving = s.receiving := by
  unfold State.arrived; (repeat' split) <;> simp
@[simp] theorem State.arrived_mode (s : State) (c : Instr) : (s.arrived c).mode = s.mode := by
  unfold State.arrived; (repeat' split) <;> simp
@[simp] theorem State.arrived_config (s : State) (c : Instr) : (s.arrived c).config = s.config := by
  unfold State.arrived; (repeat' split) <;> simp
@[simp] theorem State.arrived_clock (s : State) (c : Instr) : (s.arrived c).clock = s.clock := by
  unfold State.arrived; (repeat' split) <;> simp
@[simp] theorem State.arrived_operation (s : State) (c : Instr) : (s.arrived c).operation = s.operation := by
  unfold State.arrived; (repeat' split) <;> simp
@[simp] theorem State.arrived_resetScheduled (s : State) (c : Instr) : (s.arrived c).resetScheduled = s.resetScheduled := by
  unfold State.arrived; (repeat' split) <;> simp
@[simp] theorem State.arrived_pool (s : State) (c : Instr) : (s.arrived c).pool = s.pool := by
  unfold State.arrived; (repeat' split) <;> simp
@[simp] theorem State.arrived_runs (s : State) (c : Instr) : (s.arrived c).runs = s.runs := by
  unfold State.arrived; (repeat' split) <;> simp
@[simp] theorem State.arrived_passSerial (s : State) (c : Instr) : (s.arrived c).passSerial = s.passSerial := by
  unfold State.arrived; (repeat' split) <;> simp
@[simp] theorem State.arrived_wands (s : State) (c : Instr) : (s.arrived c).wands = s.wands := by
  unfold State.arrived; (repeat' split) <;> simp
@[simp] theorem State.arrived_strays (s : State) (c : Instr) : (s.arrived c).strays = s.strays := by
  unfold State.arrived; (repeat' split) <;> simp
@[simp] theorem State.arrived_discrepancies (s : State) (c : Instr) : (s.arrived c).discrepancies = s.discrepancies := by
  unfold State.arrived; (repeat' split) <;> simp
@[simp] theorem State.arrived_overflow (s : State) (c : Instr) : (s.arrived c).overflow = s.overflow := by
  unfold State.arrived; (repeat' split) <;> simp

/-! ### State.responded -/

@[simp] theorem State.responded_pending (s : State) (c : Instr) (x : Condition) (d : Data) : (s.responded c x d).pending = s.pending := by
  unfold State.responded; (repeat' split) <;> simp
@[simp] theorem State.responded_pins (s : State) (c : Instr) (x : Condition) (d : Data) : (s.responded c x d).pins = s.pins := by
  unfold State.responded; (repeat' split) <;> simp
@[simp] theorem State.responded_receiving (s : State) (c : Instr) (x : Condition) (d : Data) : (s.responded c x d).receiving = s.receiving := by
  unfold State.responded; (repeat' split) <;> simp
@[simp] theorem State.responded_mode (s : State) (c : Instr) (x : Condition) (d : Data) : (s.responded c x d).mode = s.mode := by
  unfold State.responded; (repeat' split) <;> simp
@[simp] theorem State.responded_config (s : State) (c : Instr) (x : Condition) (d : Data) : (s.responded c x d).config = s.config := by
  unfold State.responded; (repeat' split) <;> simp
@[simp] theorem State.responded_clock (s : State) (c : Instr) (x : Condition) (d : Data) : (s.responded c x d).clock = s.clock := by
  unfold State.responded; (repeat' split) <;> simp
@[simp] theorem State.responded_operation (s : State) (c : Instr) (x : Condition) (d : Data) : (s.responded c x d).operation = s.operation := by
  unfold State.responded; (repeat' split) <;> simp
@[simp] theorem State.responded_resetScheduled (s : State) (c : Instr) (x : Condition) (d : Data) : (s.responded c x d).resetScheduled = s.resetScheduled := by
  unfold State.responded; (repeat' split) <;> simp
@[simp] theorem State.responded_pool (s : State) (c : Instr) (x : Condition) (d : Data) : (s.responded c x d).pool = s.pool := by
  unfold State.responded; (repeat' split) <;> simp
@[simp] theorem State.responded_runs (s : State) (c : Instr) (x : Condition) (d : Data) : (s.responded c x d).runs = s.runs := by
  unfold State.responded; (repeat' split) <;> simp
@[simp] theorem State.responded_passSerial (s : State) (c : Instr) (x : Condition) (d : Data) : (s.responded c x d).passSerial = s.passSerial := by
  unfold State.responded; (repeat' split) <;> simp
@[simp] theorem State.responded_wands (s : State) (c : Instr) (x : Condition) (d : Data) : (s.responded c x d).wands = s.wands := by
  unfold State.responded; (repeat' split) <;> simp
@[simp] theorem State.responded_strays (s : State) (c : Instr) (x : Condition) (d : Data) : (s.responded c x d).strays = s.strays := by
  unfold State.responded; (repeat' split) <;> simp
@[simp] theorem State.responded_discrepancies (s : State) (c : Instr) (x : Condition) (d : Data) : (s.responded c x d).discrepancies = s.discrepancies := by
  unfold State.responded; (repeat' split) <;> simp
@[simp] theorem State.responded_overflow (s : State) (c : Instr) (x : Condition) (d : Data) : (s.responded c x d).overflow = s.overflow := by
  unfold State.responded; (repeat' split) <;> simp

/-! ### State.rejectFrame -/

@[simp] theorem State.rejectFrame_pending (s : State) (p : Port) : (s.rejectFrame p).pending = s.pending := by
  unfold State.rejectFrame; (repeat' split) <;> simp
@[simp] theorem State.rejectFrame_pins (s : State) (p : Port) : (s.rejectFrame p).pins = s.pins := by
  unfold State.rejectFrame; (repeat' split) <;> simp
@[simp] theorem State.rejectFrame_receiving (s : State) (p : Port) : (s.rejectFrame p).receiving = s.receiving := by
  unfold State.rejectFrame; (repeat' split) <;> simp
@[simp] theorem State.rejectFrame_mode (s : State) (p : Port) : (s.rejectFrame p).mode = s.mode := by
  unfold State.rejectFrame; (repeat' split) <;> simp
@[simp] theorem State.rejectFrame_config (s : State) (p : Port) : (s.rejectFrame p).config = s.config := by
  unfold State.rejectFrame; (repeat' split) <;> simp
@[simp] theorem State.rejectFrame_clock (s : State) (p : Port) : (s.rejectFrame p).clock = s.clock := by
  unfold State.rejectFrame; (repeat' split) <;> simp
@[simp] theorem State.rejectFrame_operation (s : State) (p : Port) : (s.rejectFrame p).operation = s.operation := by
  unfold State.rejectFrame; (repeat' split) <;> simp
@[simp] theorem State.rejectFrame_resetScheduled (s : State) (p : Port) : (s.rejectFrame p).resetScheduled = s.resetScheduled := by
  unfold State.rejectFrame; (repeat' split) <;> simp
@[simp] theorem State.rejectFrame_pool (s : State) (p : Port) : (s.rejectFrame p).pool = s.pool := by
  unfold State.rejectFrame; (repeat' split) <;> simp
@[simp] theorem State.rejectFrame_runs (s : State) (p : Port) : (s.rejectFrame p).runs = s.runs := by
  unfold State.rejectFrame; (repeat' split) <;> simp
@[simp] theorem State.rejectFrame_passSerial (s : State) (p : Port) : (s.rejectFrame p).passSerial = s.passSerial := by
  unfold State.rejectFrame; (repeat' split) <;> simp
@[simp] theorem State.rejectFrame_wands (s : State) (p : Port) : (s.rejectFrame p).wands = s.wands := by
  unfold State.rejectFrame; (repeat' split) <;> simp
@[simp] theorem State.rejectFrame_strays (s : State) (p : Port) : (s.rejectFrame p).strays = s.strays := by
  unfold State.rejectFrame; (repeat' split) <;> simp
@[simp] theorem State.rejectFrame_discrepancies (s : State) (p : Port) : (s.rejectFrame p).discrepancies = s.discrepancies := by
  unfold State.rejectFrame; (repeat' split) <;> simp
@[simp] theorem State.rejectFrame_overflow (s : State) (p : Port) : (s.rejectFrame p).overflow = s.overflow := by
  unfold State.rejectFrame; (repeat' split) <;> simp

/-! ### State.addEntry -/

@[simp] theorem State.addEntry_pending (s : State) (r : RunNo) (e : Entry) : (s.addEntry r e).pending = s.pending := by
  simp [State.addEntry]
@[simp] theorem State.addEntry_pins (s : State) (r : RunNo) (e : Entry) : (s.addEntry r e).pins = s.pins := by
  simp [State.addEntry]
@[simp] theorem State.addEntry_receiving (s : State) (r : RunNo) (e : Entry) : (s.addEntry r e).receiving = s.receiving := by
  simp [State.addEntry]
@[simp] theorem State.addEntry_mode (s : State) (r : RunNo) (e : Entry) : (s.addEntry r e).mode = s.mode := by
  simp [State.addEntry]
@[simp] theorem State.addEntry_config (s : State) (r : RunNo) (e : Entry) : (s.addEntry r e).config = s.config := by
  simp [State.addEntry]
@[simp] theorem State.addEntry_clock (s : State) (r : RunNo) (e : Entry) : (s.addEntry r e).clock = s.clock := by
  simp [State.addEntry]
@[simp] theorem State.addEntry_operation (s : State) (r : RunNo) (e : Entry) : (s.addEntry r e).operation = s.operation := by
  simp [State.addEntry]
@[simp] theorem State.addEntry_resetScheduled (s : State) (r : RunNo) (e : Entry) : (s.addEntry r e).resetScheduled = s.resetScheduled := by
  simp [State.addEntry]
@[simp] theorem State.addEntry_passSerial (s : State) (r : RunNo) (e : Entry) : (s.addEntry r e).passSerial = s.passSerial := by
  simp [State.addEntry]
@[simp] theorem State.addEntry_wands (s : State) (r : RunNo) (e : Entry) : (s.addEntry r e).wands = s.wands := by
  simp [State.addEntry]
@[simp] theorem State.addEntry_strays (s : State) (r : RunNo) (e : Entry) : (s.addEntry r e).strays = s.strays := by
  simp [State.addEntry]
@[simp] theorem State.addEntry_discrepancies (s : State) (r : RunNo) (e : Entry) : (s.addEntry r e).discrepancies = s.discrepancies := by
  simp [State.addEntry]
@[simp] theorem State.addEntry_overflow (s : State) (r : RunNo) (e : Entry) : (s.addEntry r e).overflow = s.overflow := by
  simp [State.addEntry]
@[simp] theorem State.addEntry_ports (s : State) (r : RunNo) (e : Entry) : (s.addEntry r e).ports = s.ports := by
  simp [State.addEntry]

/-! ### State.beginPass -/

@[simp] theorem State.beginPass_pending (s : State) (w : WandPort) (i : ShelfIndex) (r : RunNo) (x : LoadedRun) : (s.beginPass w i r x).pending = s.pending := by
  simp [State.beginPass]
@[simp] theorem State.beginPass_pins (s : State) (w : WandPort) (i : ShelfIndex) (r : RunNo) (x : LoadedRun) : (s.beginPass w i r x).pins = s.pins := by
  simp [State.beginPass]
@[simp] theorem State.beginPass_receiving (s : State) (w : WandPort) (i : ShelfIndex) (r : RunNo) (x : LoadedRun) : (s.beginPass w i r x).receiving = s.receiving := by
  simp [State.beginPass]
@[simp] theorem State.beginPass_mode (s : State) (w : WandPort) (i : ShelfIndex) (r : RunNo) (x : LoadedRun) : (s.beginPass w i r x).mode = s.mode := by
  simp [State.beginPass]
@[simp] theorem State.beginPass_config (s : State) (w : WandPort) (i : ShelfIndex) (r : RunNo) (x : LoadedRun) : (s.beginPass w i r x).config = s.config := by
  simp [State.beginPass]
@[simp] theorem State.beginPass_clock (s : State) (w : WandPort) (i : ShelfIndex) (r : RunNo) (x : LoadedRun) : (s.beginPass w i r x).clock = s.clock := by
  simp [State.beginPass]
@[simp] theorem State.beginPass_operation (s : State) (w : WandPort) (i : ShelfIndex) (r : RunNo) (x : LoadedRun) : (s.beginPass w i r x).operation = s.operation := by
  simp [State.beginPass]
@[simp] theorem State.beginPass_resetScheduled (s : State) (w : WandPort) (i : ShelfIndex) (r : RunNo) (x : LoadedRun) : (s.beginPass w i r x).resetScheduled = s.resetScheduled := by
  simp [State.beginPass]
@[simp] theorem State.beginPass_pool (s : State) (w : WandPort) (i : ShelfIndex) (r : RunNo) (x : LoadedRun) : (s.beginPass w i r x).pool = s.pool := by
  simp [State.beginPass]
@[simp] theorem State.beginPass_strays (s : State) (w : WandPort) (i : ShelfIndex) (r : RunNo) (x : LoadedRun) : (s.beginPass w i r x).strays = s.strays := by
  simp [State.beginPass]
@[simp] theorem State.beginPass_discrepancies (s : State) (w : WandPort) (i : ShelfIndex) (r : RunNo) (x : LoadedRun) : (s.beginPass w i r x).discrepancies = s.discrepancies := by
  simp [State.beginPass]
@[simp] theorem State.beginPass_overflow (s : State) (w : WandPort) (i : ShelfIndex) (r : RunNo) (x : LoadedRun) : (s.beginPass w i r x).overflow = s.overflow := by
  simp [State.beginPass]
@[simp] theorem State.beginPass_ports (s : State) (w : WandPort) (i : ShelfIndex) (r : RunNo) (x : LoadedRun) : (s.beginPass w i r x).ports = s.ports := by
  simp [State.beginPass]

/-! ### State.advance -/

@[simp] theorem State.advance_pending (s : State) : (s.advance).pending = s.pending := by
  unfold State.advance; (repeat' split) <;> simp
@[simp] theorem State.advance_pins (s : State) : (s.advance).pins = s.pins := by
  unfold State.advance; (repeat' split) <;> simp
@[simp] theorem State.advance_receiving (s : State) : (s.advance).receiving = s.receiving := by
  unfold State.advance; (repeat' split) <;> simp
@[simp] theorem State.advance_mode (s : State) : (s.advance).mode = s.mode := by
  unfold State.advance; (repeat' split) <;> simp
@[simp] theorem State.advance_config (s : State) : (s.advance).config = s.config := by
  unfold State.advance; (repeat' split) <;> simp
@[simp] theorem State.advance_operation (s : State) : (s.advance).operation = s.operation := by
  unfold State.advance; (repeat' split) <;> simp
@[simp] theorem State.advance_resetScheduled (s : State) : (s.advance).resetScheduled = s.resetScheduled := by
  unfold State.advance; (repeat' split) <;> simp
@[simp] theorem State.advance_pool (s : State) : (s.advance).pool = s.pool := by
  unfold State.advance; (repeat' split) <;> simp
@[simp] theorem State.advance_passSerial (s : State) : (s.advance).passSerial = s.passSerial := by
  unfold State.advance; (repeat' split) <;> simp
@[simp] theorem State.advance_wands (s : State) : (s.advance).wands = s.wands := by
  unfold State.advance; (repeat' split) <;> simp
@[simp] theorem State.advance_strays (s : State) : (s.advance).strays = s.strays := by
  unfold State.advance; (repeat' split) <;> simp
@[simp] theorem State.advance_discrepancies (s : State) : (s.advance).discrepancies = s.discrepancies := by
  unfold State.advance; (repeat' split) <;> simp
@[simp] theorem State.advance_overflow (s : State) : (s.advance).overflow = s.overflow := by
  unfold State.advance; (repeat' split) <;> simp
@[simp] theorem State.advance_ports (s : State) : (s.advance).ports = s.ports := by
  unfold State.advance; (repeat' split) <;> simp

/-! ### State.holdRun -/

@[simp] theorem State.holdRun_pending (s : State) (o : Option RunNo) : (s.holdRun o).pending = s.pending := by
  unfold State.holdRun; (repeat' split) <;> simp
@[simp] theorem State.holdRun_pins (s : State) (o : Option RunNo) : (s.holdRun o).pins = s.pins := by
  unfold State.holdRun; (repeat' split) <;> simp
@[simp] theorem State.holdRun_receiving (s : State) (o : Option RunNo) : (s.holdRun o).receiving = s.receiving := by
  unfold State.holdRun; (repeat' split) <;> simp
@[simp] theorem State.holdRun_mode (s : State) (o : Option RunNo) : (s.holdRun o).mode = s.mode := by
  unfold State.holdRun; (repeat' split) <;> simp
@[simp] theorem State.holdRun_config (s : State) (o : Option RunNo) : (s.holdRun o).config = s.config := by
  unfold State.holdRun; (repeat' split) <;> simp
@[simp] theorem State.holdRun_clock (s : State) (o : Option RunNo) : (s.holdRun o).clock = s.clock := by
  unfold State.holdRun; (repeat' split) <;> simp
@[simp] theorem State.holdRun_operation (s : State) (o : Option RunNo) : (s.holdRun o).operation = s.operation := by
  unfold State.holdRun; (repeat' split) <;> simp
@[simp] theorem State.holdRun_resetScheduled (s : State) (o : Option RunNo) : (s.holdRun o).resetScheduled = s.resetScheduled := by
  unfold State.holdRun; (repeat' split) <;> simp
@[simp] theorem State.holdRun_pool (s : State) (o : Option RunNo) : (s.holdRun o).pool = s.pool := by
  unfold State.holdRun; (repeat' split) <;> simp
@[simp] theorem State.holdRun_passSerial (s : State) (o : Option RunNo) : (s.holdRun o).passSerial = s.passSerial := by
  unfold State.holdRun; (repeat' split) <;> simp
@[simp] theorem State.holdRun_wands (s : State) (o : Option RunNo) : (s.holdRun o).wands = s.wands := by
  unfold State.holdRun; (repeat' split) <;> simp
@[simp] theorem State.holdRun_strays (s : State) (o : Option RunNo) : (s.holdRun o).strays = s.strays := by
  unfold State.holdRun; (repeat' split) <;> simp
@[simp] theorem State.holdRun_discrepancies (s : State) (o : Option RunNo) : (s.holdRun o).discrepancies = s.discrepancies := by
  unfold State.holdRun; (repeat' split) <;> simp
@[simp] theorem State.holdRun_overflow (s : State) (o : Option RunNo) : (s.holdRun o).overflow = s.overflow := by
  unfold State.holdRun; (repeat' split) <;> simp
@[simp] theorem State.holdRun_ports (s : State) (o : Option RunNo) : (s.holdRun o).ports = s.ports := by
  unfold State.holdRun; (repeat' split) <;> simp

/-! ### State.resumeRun -/

@[simp] theorem State.resumeRun_pending (s : State) (o : Option RunNo) : (s.resumeRun o).pending = s.pending := by
  unfold State.resumeRun; (repeat' split) <;> simp
@[simp] theorem State.resumeRun_pins (s : State) (o : Option RunNo) : (s.resumeRun o).pins = s.pins := by
  unfold State.resumeRun; (repeat' split) <;> simp
@[simp] theorem State.resumeRun_receiving (s : State) (o : Option RunNo) : (s.resumeRun o).receiving = s.receiving := by
  unfold State.resumeRun; (repeat' split) <;> simp
@[simp] theorem State.resumeRun_mode (s : State) (o : Option RunNo) : (s.resumeRun o).mode = s.mode := by
  unfold State.resumeRun; (repeat' split) <;> simp
@[simp] theorem State.resumeRun_config (s : State) (o : Option RunNo) : (s.resumeRun o).config = s.config := by
  unfold State.resumeRun; (repeat' split) <;> simp
@[simp] theorem State.resumeRun_clock (s : State) (o : Option RunNo) : (s.resumeRun o).clock = s.clock := by
  unfold State.resumeRun; (repeat' split) <;> simp
@[simp] theorem State.resumeRun_operation (s : State) (o : Option RunNo) : (s.resumeRun o).operation = s.operation := by
  unfold State.resumeRun; (repeat' split) <;> simp
@[simp] theorem State.resumeRun_resetScheduled (s : State) (o : Option RunNo) : (s.resumeRun o).resetScheduled = s.resetScheduled := by
  unfold State.resumeRun; (repeat' split) <;> simp
@[simp] theorem State.resumeRun_pool (s : State) (o : Option RunNo) : (s.resumeRun o).pool = s.pool := by
  unfold State.resumeRun; (repeat' split) <;> simp
@[simp] theorem State.resumeRun_passSerial (s : State) (o : Option RunNo) : (s.resumeRun o).passSerial = s.passSerial := by
  unfold State.resumeRun; (repeat' split) <;> simp
@[simp] theorem State.resumeRun_wands (s : State) (o : Option RunNo) : (s.resumeRun o).wands = s.wands := by
  unfold State.resumeRun; (repeat' split) <;> simp
@[simp] theorem State.resumeRun_strays (s : State) (o : Option RunNo) : (s.resumeRun o).strays = s.strays := by
  unfold State.resumeRun; (repeat' split) <;> simp
@[simp] theorem State.resumeRun_discrepancies (s : State) (o : Option RunNo) : (s.resumeRun o).discrepancies = s.discrepancies := by
  unfold State.resumeRun; (repeat' split) <;> simp
@[simp] theorem State.resumeRun_overflow (s : State) (o : Option RunNo) : (s.resumeRun o).overflow = s.overflow := by
  unfold State.resumeRun; (repeat' split) <;> simp
@[simp] theorem State.resumeRun_ports (s : State) (o : Option RunNo) : (s.resumeRun o).ports = s.ports := by
  unfold State.resumeRun; (repeat' split) <;> simp

/-! ### State.flagLoanConflict -/

@[simp] theorem State.flagLoanConflict_pending (s : State) (i : Nat) : (s.flagLoanConflict i).pending = s.pending := by
  simp [State.flagLoanConflict]
@[simp] theorem State.flagLoanConflict_pins (s : State) (i : Nat) : (s.flagLoanConflict i).pins = s.pins := by
  simp [State.flagLoanConflict]
@[simp] theorem State.flagLoanConflict_receiving (s : State) (i : Nat) : (s.flagLoanConflict i).receiving = s.receiving := by
  simp [State.flagLoanConflict]
@[simp] theorem State.flagLoanConflict_mode (s : State) (i : Nat) : (s.flagLoanConflict i).mode = s.mode := by
  simp [State.flagLoanConflict]
@[simp] theorem State.flagLoanConflict_config (s : State) (i : Nat) : (s.flagLoanConflict i).config = s.config := by
  simp [State.flagLoanConflict]
@[simp] theorem State.flagLoanConflict_clock (s : State) (i : Nat) : (s.flagLoanConflict i).clock = s.clock := by
  simp [State.flagLoanConflict]
@[simp] theorem State.flagLoanConflict_operation (s : State) (i : Nat) : (s.flagLoanConflict i).operation = s.operation := by
  simp [State.flagLoanConflict]
@[simp] theorem State.flagLoanConflict_resetScheduled (s : State) (i : Nat) : (s.flagLoanConflict i).resetScheduled = s.resetScheduled := by
  simp [State.flagLoanConflict]
@[simp] theorem State.flagLoanConflict_runs (s : State) (i : Nat) : (s.flagLoanConflict i).runs = s.runs := by
  simp [State.flagLoanConflict]
@[simp] theorem State.flagLoanConflict_passSerial (s : State) (i : Nat) : (s.flagLoanConflict i).passSerial = s.passSerial := by
  simp [State.flagLoanConflict]
@[simp] theorem State.flagLoanConflict_wands (s : State) (i : Nat) : (s.flagLoanConflict i).wands = s.wands := by
  simp [State.flagLoanConflict]
@[simp] theorem State.flagLoanConflict_strays (s : State) (i : Nat) : (s.flagLoanConflict i).strays = s.strays := by
  simp [State.flagLoanConflict]
@[simp] theorem State.flagLoanConflict_discrepancies (s : State) (i : Nat) : (s.flagLoanConflict i).discrepancies = s.discrepancies := by
  simp [State.flagLoanConflict]
@[simp] theorem State.flagLoanConflict_overflow (s : State) (i : Nat) : (s.flagLoanConflict i).overflow = s.overflow := by
  simp [State.flagLoanConflict]
@[simp] theorem State.flagLoanConflict_ports (s : State) (i : Nat) : (s.flagLoanConflict i).ports = s.ports := by
  simp [State.flagLoanConflict]

/-! ### State.flagSeenBeforeLoan -/

@[simp] theorem State.flagSeenBeforeLoan_pending (s : State) (i : Nat) : (s.flagSeenBeforeLoan i).pending = s.pending := by
  simp [State.flagSeenBeforeLoan]
@[simp] theorem State.flagSeenBeforeLoan_pins (s : State) (i : Nat) : (s.flagSeenBeforeLoan i).pins = s.pins := by
  simp [State.flagSeenBeforeLoan]
@[simp] theorem State.flagSeenBeforeLoan_receiving (s : State) (i : Nat) : (s.flagSeenBeforeLoan i).receiving = s.receiving := by
  simp [State.flagSeenBeforeLoan]
@[simp] theorem State.flagSeenBeforeLoan_mode (s : State) (i : Nat) : (s.flagSeenBeforeLoan i).mode = s.mode := by
  simp [State.flagSeenBeforeLoan]
@[simp] theorem State.flagSeenBeforeLoan_config (s : State) (i : Nat) : (s.flagSeenBeforeLoan i).config = s.config := by
  simp [State.flagSeenBeforeLoan]
@[simp] theorem State.flagSeenBeforeLoan_clock (s : State) (i : Nat) : (s.flagSeenBeforeLoan i).clock = s.clock := by
  simp [State.flagSeenBeforeLoan]
@[simp] theorem State.flagSeenBeforeLoan_operation (s : State) (i : Nat) : (s.flagSeenBeforeLoan i).operation = s.operation := by
  simp [State.flagSeenBeforeLoan]
@[simp] theorem State.flagSeenBeforeLoan_resetScheduled (s : State) (i : Nat) : (s.flagSeenBeforeLoan i).resetScheduled = s.resetScheduled := by
  simp [State.flagSeenBeforeLoan]
@[simp] theorem State.flagSeenBeforeLoan_runs (s : State) (i : Nat) : (s.flagSeenBeforeLoan i).runs = s.runs := by
  simp [State.flagSeenBeforeLoan]
@[simp] theorem State.flagSeenBeforeLoan_passSerial (s : State) (i : Nat) : (s.flagSeenBeforeLoan i).passSerial = s.passSerial := by
  simp [State.flagSeenBeforeLoan]
@[simp] theorem State.flagSeenBeforeLoan_wands (s : State) (i : Nat) : (s.flagSeenBeforeLoan i).wands = s.wands := by
  simp [State.flagSeenBeforeLoan]
@[simp] theorem State.flagSeenBeforeLoan_strays (s : State) (i : Nat) : (s.flagSeenBeforeLoan i).strays = s.strays := by
  simp [State.flagSeenBeforeLoan]
@[simp] theorem State.flagSeenBeforeLoan_discrepancies (s : State) (i : Nat) : (s.flagSeenBeforeLoan i).discrepancies = s.discrepancies := by
  simp [State.flagSeenBeforeLoan]
@[simp] theorem State.flagSeenBeforeLoan_overflow (s : State) (i : Nat) : (s.flagSeenBeforeLoan i).overflow = s.overflow := by
  simp [State.flagSeenBeforeLoan]
@[simp] theorem State.flagSeenBeforeLoan_ports (s : State) (i : Nat) : (s.flagSeenBeforeLoan i).ports = s.ports := by
  simp [State.flagSeenBeforeLoan]

/-! ### State.judge -/

@[simp] theorem State.judge_pending (s : State) (r : RunNo) (w : WandPort) (i : Nat) (e : Entry) (j : Judgement) : (s.judge r w i e j).pending = s.pending := by
  unfold State.judge
  cases j <;> simp
@[simp] theorem State.judge_pins (s : State) (r : RunNo) (w : WandPort) (i : Nat) (e : Entry) (j : Judgement) : (s.judge r w i e j).pins = s.pins := by
  unfold State.judge
  cases j <;> simp
@[simp] theorem State.judge_receiving (s : State) (r : RunNo) (w : WandPort) (i : Nat) (e : Entry) (j : Judgement) : (s.judge r w i e j).receiving = s.receiving := by
  unfold State.judge
  cases j <;> simp
@[simp] theorem State.judge_mode (s : State) (r : RunNo) (w : WandPort) (i : Nat) (e : Entry) (j : Judgement) : (s.judge r w i e j).mode = s.mode := by
  unfold State.judge
  cases j <;> simp
@[simp] theorem State.judge_config (s : State) (r : RunNo) (w : WandPort) (i : Nat) (e : Entry) (j : Judgement) : (s.judge r w i e j).config = s.config := by
  unfold State.judge
  cases j <;> simp
@[simp] theorem State.judge_clock (s : State) (r : RunNo) (w : WandPort) (i : Nat) (e : Entry) (j : Judgement) : (s.judge r w i e j).clock = s.clock := by
  unfold State.judge
  cases j <;> simp
@[simp] theorem State.judge_operation (s : State) (r : RunNo) (w : WandPort) (i : Nat) (e : Entry) (j : Judgement) : (s.judge r w i e j).operation = s.operation := by
  unfold State.judge
  cases j <;> simp
@[simp] theorem State.judge_resetScheduled (s : State) (r : RunNo) (w : WandPort) (i : Nat) (e : Entry) (j : Judgement) : (s.judge r w i e j).resetScheduled = s.resetScheduled := by
  unfold State.judge
  cases j <;> simp
@[simp] theorem State.judge_passSerial (s : State) (r : RunNo) (w : WandPort) (i : Nat) (e : Entry) (j : Judgement) : (s.judge r w i e j).passSerial = s.passSerial := by
  unfold State.judge
  cases j <;> simp
@[simp] theorem State.judge_wands (s : State) (r : RunNo) (w : WandPort) (i : Nat) (e : Entry) (j : Judgement) : (s.judge r w i e j).wands = s.wands := by
  unfold State.judge
  cases j <;> simp
@[simp] theorem State.judge_strays (s : State) (r : RunNo) (w : WandPort) (i : Nat) (e : Entry) (j : Judgement) : (s.judge r w i e j).strays = s.strays := by
  unfold State.judge
  cases j <;> simp

/-! ### State.judgePassEnd -/

@[simp] theorem State.judgePassEnd_pending (s : State) (r : RunNo) (w : WandPort) (p : PassRecord) : (s.judgePassEnd r w p).pending = s.pending := by
  unfold State.judgePassEnd; (repeat' split) <;> simp
@[simp] theorem State.judgePassEnd_pins (s : State) (r : RunNo) (w : WandPort) (p : PassRecord) : (s.judgePassEnd r w p).pins = s.pins := by
  unfold State.judgePassEnd; (repeat' split) <;> simp
@[simp] theorem State.judgePassEnd_receiving (s : State) (r : RunNo) (w : WandPort) (p : PassRecord) : (s.judgePassEnd r w p).receiving = s.receiving := by
  unfold State.judgePassEnd; (repeat' split) <;> simp
@[simp] theorem State.judgePassEnd_mode (s : State) (r : RunNo) (w : WandPort) (p : PassRecord) : (s.judgePassEnd r w p).mode = s.mode := by
  unfold State.judgePassEnd; (repeat' split) <;> simp
@[simp] theorem State.judgePassEnd_config (s : State) (r : RunNo) (w : WandPort) (p : PassRecord) : (s.judgePassEnd r w p).config = s.config := by
  unfold State.judgePassEnd; (repeat' split) <;> simp
@[simp] theorem State.judgePassEnd_clock (s : State) (r : RunNo) (w : WandPort) (p : PassRecord) : (s.judgePassEnd r w p).clock = s.clock := by
  unfold State.judgePassEnd; (repeat' split) <;> simp
@[simp] theorem State.judgePassEnd_operation (s : State) (r : RunNo) (w : WandPort) (p : PassRecord) : (s.judgePassEnd r w p).operation = s.operation := by
  unfold State.judgePassEnd; (repeat' split) <;> simp
@[simp] theorem State.judgePassEnd_resetScheduled (s : State) (r : RunNo) (w : WandPort) (p : PassRecord) : (s.judgePassEnd r w p).resetScheduled = s.resetScheduled := by
  unfold State.judgePassEnd; (repeat' split) <;> simp
@[simp] theorem State.judgePassEnd_passSerial (s : State) (r : RunNo) (w : WandPort) (p : PassRecord) : (s.judgePassEnd r w p).passSerial = s.passSerial := by
  unfold State.judgePassEnd; (repeat' split) <;> simp
@[simp] theorem State.judgePassEnd_wands (s : State) (r : RunNo) (w : WandPort) (p : PassRecord) : (s.judgePassEnd r w p).wands = s.wands := by
  unfold State.judgePassEnd; (repeat' split) <;> simp
@[simp] theorem State.judgePassEnd_strays (s : State) (r : RunNo) (w : WandPort) (p : PassRecord) : (s.judgePassEnd r w p).strays = s.strays := by
  unfold State.judgePassEnd; (repeat' split) <;> simp

/-! ### State.gapTest -/

@[simp] theorem State.gapTest_pending (s : State) (r : RunNo) (w : WandPort) (p : PassRecord) (n : Nat) : (s.gapTest r w p n).pending = s.pending := by
  unfold State.gapTest; (repeat' split) <;> simp
@[simp] theorem State.gapTest_pins (s : State) (r : RunNo) (w : WandPort) (p : PassRecord) (n : Nat) : (s.gapTest r w p n).pins = s.pins := by
  unfold State.gapTest; (repeat' split) <;> simp
@[simp] theorem State.gapTest_receiving (s : State) (r : RunNo) (w : WandPort) (p : PassRecord) (n : Nat) : (s.gapTest r w p n).receiving = s.receiving := by
  unfold State.gapTest; (repeat' split) <;> simp
@[simp] theorem State.gapTest_mode (s : State) (r : RunNo) (w : WandPort) (p : PassRecord) (n : Nat) : (s.gapTest r w p n).mode = s.mode := by
  unfold State.gapTest; (repeat' split) <;> simp
@[simp] theorem State.gapTest_config (s : State) (r : RunNo) (w : WandPort) (p : PassRecord) (n : Nat) : (s.gapTest r w p n).config = s.config := by
  unfold State.gapTest; (repeat' split) <;> simp
@[simp] theorem State.gapTest_clock (s : State) (r : RunNo) (w : WandPort) (p : PassRecord) (n : Nat) : (s.gapTest r w p n).clock = s.clock := by
  unfold State.gapTest; (repeat' split) <;> simp
@[simp] theorem State.gapTest_operation (s : State) (r : RunNo) (w : WandPort) (p : PassRecord) (n : Nat) : (s.gapTest r w p n).operation = s.operation := by
  unfold State.gapTest; (repeat' split) <;> simp
@[simp] theorem State.gapTest_resetScheduled (s : State) (r : RunNo) (w : WandPort) (p : PassRecord) (n : Nat) : (s.gapTest r w p n).resetScheduled = s.resetScheduled := by
  unfold State.gapTest; (repeat' split) <;> simp
@[simp] theorem State.gapTest_pool (s : State) (r : RunNo) (w : WandPort) (p : PassRecord) (n : Nat) : (s.gapTest r w p n).pool = s.pool := by
  unfold State.gapTest; (repeat' split) <;> simp
@[simp] theorem State.gapTest_passSerial (s : State) (r : RunNo) (w : WandPort) (p : PassRecord) (n : Nat) : (s.gapTest r w p n).passSerial = s.passSerial := by
  unfold State.gapTest; (repeat' split) <;> simp
@[simp] theorem State.gapTest_wands (s : State) (r : RunNo) (w : WandPort) (p : PassRecord) (n : Nat) : (s.gapTest r w p n).wands = s.wands := by
  unfold State.gapTest; (repeat' split) <;> simp
@[simp] theorem State.gapTest_strays (s : State) (r : RunNo) (w : WandPort) (p : PassRecord) (n : Nat) : (s.gapTest r w p n).strays = s.strays := by
  unfold State.gapTest; (repeat' split) <;> simp

/-! ### State.accept -/

@[simp] theorem State.accept_pending (s : State) (r : RunNo) (n : Nat) : (s.accept r n).pending = s.pending := by
  simp [State.accept]
@[simp] theorem State.accept_pins (s : State) (r : RunNo) (n : Nat) : (s.accept r n).pins = s.pins := by
  simp [State.accept]
@[simp] theorem State.accept_receiving (s : State) (r : RunNo) (n : Nat) : (s.accept r n).receiving = s.receiving := by
  simp [State.accept]
@[simp] theorem State.accept_mode (s : State) (r : RunNo) (n : Nat) : (s.accept r n).mode = s.mode := by
  simp [State.accept]
@[simp] theorem State.accept_config (s : State) (r : RunNo) (n : Nat) : (s.accept r n).config = s.config := by
  simp [State.accept]
@[simp] theorem State.accept_clock (s : State) (r : RunNo) (n : Nat) : (s.accept r n).clock = s.clock := by
  simp [State.accept]
@[simp] theorem State.accept_operation (s : State) (r : RunNo) (n : Nat) : (s.accept r n).operation = s.operation := by
  simp [State.accept]
@[simp] theorem State.accept_resetScheduled (s : State) (r : RunNo) (n : Nat) : (s.accept r n).resetScheduled = s.resetScheduled := by
  simp [State.accept]
@[simp] theorem State.accept_pool (s : State) (r : RunNo) (n : Nat) : (s.accept r n).pool = s.pool := by
  simp [State.accept]
@[simp] theorem State.accept_passSerial (s : State) (r : RunNo) (n : Nat) : (s.accept r n).passSerial = s.passSerial := by
  simp [State.accept]
@[simp] theorem State.accept_wands (s : State) (r : RunNo) (n : Nat) : (s.accept r n).wands = s.wands := by
  simp [State.accept]
@[simp] theorem State.accept_strays (s : State) (r : RunNo) (n : Nat) : (s.accept r n).strays = s.strays := by
  simp [State.accept]
@[simp] theorem State.accept_discrepancies (s : State) (r : RunNo) (n : Nat) : (s.accept r n).discrepancies = s.discrepancies := by
  simp [State.accept]
@[simp] theorem State.accept_overflow (s : State) (r : RunNo) (n : Nat) : (s.accept r n).overflow = s.overflow := by
  simp [State.accept]
@[simp] theorem State.accept_ports (s : State) (r : RunNo) (n : Nat) : (s.accept r n).ports = s.ports := by
  simp [State.accept]

/-! ### State.addStray -/

@[simp] theorem State.addStray_pending (s : State) (y : Stray) : (s.addStray y).pending = s.pending := by
  unfold State.addStray; dsimp only; (repeat' split) <;> simp
@[simp] theorem State.addStray_pins (s : State) (y : Stray) : (s.addStray y).pins = s.pins := by
  unfold State.addStray; dsimp only; (repeat' split) <;> simp
@[simp] theorem State.addStray_receiving (s : State) (y : Stray) : (s.addStray y).receiving = s.receiving := by
  unfold State.addStray; dsimp only; (repeat' split) <;> simp
@[simp] theorem State.addStray_mode (s : State) (y : Stray) : (s.addStray y).mode = s.mode := by
  unfold State.addStray; dsimp only; (repeat' split) <;> simp
@[simp] theorem State.addStray_config (s : State) (y : Stray) : (s.addStray y).config = s.config := by
  unfold State.addStray; dsimp only; (repeat' split) <;> simp
@[simp] theorem State.addStray_clock (s : State) (y : Stray) : (s.addStray y).clock = s.clock := by
  unfold State.addStray; dsimp only; (repeat' split) <;> simp
@[simp] theorem State.addStray_operation (s : State) (y : Stray) : (s.addStray y).operation = s.operation := by
  unfold State.addStray; dsimp only; (repeat' split) <;> simp
@[simp] theorem State.addStray_resetScheduled (s : State) (y : Stray) : (s.addStray y).resetScheduled = s.resetScheduled := by
  unfold State.addStray; dsimp only; (repeat' split) <;> simp
@[simp] theorem State.addStray_pool (s : State) (y : Stray) : (s.addStray y).pool = s.pool := by
  unfold State.addStray; dsimp only; (repeat' split) <;> simp
@[simp] theorem State.addStray_runs (s : State) (y : Stray) : (s.addStray y).runs = s.runs := by
  unfold State.addStray; dsimp only; (repeat' split) <;> simp
@[simp] theorem State.addStray_passSerial (s : State) (y : Stray) : (s.addStray y).passSerial = s.passSerial := by
  unfold State.addStray; dsimp only; (repeat' split) <;> simp
@[simp] theorem State.addStray_wands (s : State) (y : Stray) : (s.addStray y).wands = s.wands := by
  unfold State.addStray; dsimp only; (repeat' split) <;> simp
@[simp] theorem State.addStray_discrepancies (s : State) (y : Stray) : (s.addStray y).discrepancies = s.discrepancies := by
  unfold State.addStray; dsimp only; (repeat' split) <;> simp
@[simp] theorem State.addStray_overflow (s : State) (y : Stray) : (s.addStray y).overflow = s.overflow := by
  unfold State.addStray; dsimp only; (repeat' split) <;> simp

/-! ### State.sightStray -/

@[simp] theorem State.sightStray_pending (s : State) (r : RunNo) (w : WandPort) (n : U32) (x : Nat) (t : Tag) : ((s.sightStray r w n x t).2).pending = s.pending := by
  unfold State.sightStray; dsimp only; (repeat' split) <;> simp
@[simp] theorem State.sightStray_pins (s : State) (r : RunNo) (w : WandPort) (n : U32) (x : Nat) (t : Tag) : ((s.sightStray r w n x t).2).pins = s.pins := by
  unfold State.sightStray; dsimp only; (repeat' split) <;> simp
@[simp] theorem State.sightStray_receiving (s : State) (r : RunNo) (w : WandPort) (n : U32) (x : Nat) (t : Tag) : ((s.sightStray r w n x t).2).receiving = s.receiving := by
  unfold State.sightStray; dsimp only; (repeat' split) <;> simp
@[simp] theorem State.sightStray_mode (s : State) (r : RunNo) (w : WandPort) (n : U32) (x : Nat) (t : Tag) : ((s.sightStray r w n x t).2).mode = s.mode := by
  unfold State.sightStray; dsimp only; (repeat' split) <;> simp
@[simp] theorem State.sightStray_config (s : State) (r : RunNo) (w : WandPort) (n : U32) (x : Nat) (t : Tag) : ((s.sightStray r w n x t).2).config = s.config := by
  unfold State.sightStray; dsimp only; (repeat' split) <;> simp
@[simp] theorem State.sightStray_clock (s : State) (r : RunNo) (w : WandPort) (n : U32) (x : Nat) (t : Tag) : ((s.sightStray r w n x t).2).clock = s.clock := by
  unfold State.sightStray; dsimp only; (repeat' split) <;> simp
@[simp] theorem State.sightStray_operation (s : State) (r : RunNo) (w : WandPort) (n : U32) (x : Nat) (t : Tag) : ((s.sightStray r w n x t).2).operation = s.operation := by
  unfold State.sightStray; dsimp only; (repeat' split) <;> simp
@[simp] theorem State.sightStray_resetScheduled (s : State) (r : RunNo) (w : WandPort) (n : U32) (x : Nat) (t : Tag) : ((s.sightStray r w n x t).2).resetScheduled = s.resetScheduled := by
  unfold State.sightStray; dsimp only; (repeat' split) <;> simp
@[simp] theorem State.sightStray_pool (s : State) (r : RunNo) (w : WandPort) (n : U32) (x : Nat) (t : Tag) : ((s.sightStray r w n x t).2).pool = s.pool := by
  unfold State.sightStray; dsimp only; (repeat' split) <;> simp
@[simp] theorem State.sightStray_passSerial (s : State) (r : RunNo) (w : WandPort) (n : U32) (x : Nat) (t : Tag) : ((s.sightStray r w n x t).2).passSerial = s.passSerial := by
  unfold State.sightStray; dsimp only; (repeat' split) <;> simp
@[simp] theorem State.sightStray_wands (s : State) (r : RunNo) (w : WandPort) (n : U32) (x : Nat) (t : Tag) : ((s.sightStray r w n x t).2).wands = s.wands := by
  unfold State.sightStray; dsimp only; (repeat' split) <;> simp

/-! ### State.sightAgain -/

@[simp] theorem State.sightAgain_pending (s : State) (r : RunNo) (w : WandPort) (n : U32) (x i : Nat) (e : Entry) (l : LastSighting) : ((s.sightAgain r w n x i e l).2).pending = s.pending := by
  unfold State.sightAgain; dsimp only; (repeat' split) <;> simp
@[simp] theorem State.sightAgain_pins (s : State) (r : RunNo) (w : WandPort) (n : U32) (x i : Nat) (e : Entry) (l : LastSighting) : ((s.sightAgain r w n x i e l).2).pins = s.pins := by
  unfold State.sightAgain; dsimp only; (repeat' split) <;> simp
@[simp] theorem State.sightAgain_receiving (s : State) (r : RunNo) (w : WandPort) (n : U32) (x i : Nat) (e : Entry) (l : LastSighting) : ((s.sightAgain r w n x i e l).2).receiving = s.receiving := by
  unfold State.sightAgain; dsimp only; (repeat' split) <;> simp
@[simp] theorem State.sightAgain_mode (s : State) (r : RunNo) (w : WandPort) (n : U32) (x i : Nat) (e : Entry) (l : LastSighting) : ((s.sightAgain r w n x i e l).2).mode = s.mode := by
  unfold State.sightAgain; dsimp only; (repeat' split) <;> simp
@[simp] theorem State.sightAgain_config (s : State) (r : RunNo) (w : WandPort) (n : U32) (x i : Nat) (e : Entry) (l : LastSighting) : ((s.sightAgain r w n x i e l).2).config = s.config := by
  unfold State.sightAgain; dsimp only; (repeat' split) <;> simp
@[simp] theorem State.sightAgain_clock (s : State) (r : RunNo) (w : WandPort) (n : U32) (x i : Nat) (e : Entry) (l : LastSighting) : ((s.sightAgain r w n x i e l).2).clock = s.clock := by
  unfold State.sightAgain; dsimp only; (repeat' split) <;> simp
@[simp] theorem State.sightAgain_operation (s : State) (r : RunNo) (w : WandPort) (n : U32) (x i : Nat) (e : Entry) (l : LastSighting) : ((s.sightAgain r w n x i e l).2).operation = s.operation := by
  unfold State.sightAgain; dsimp only; (repeat' split) <;> simp
@[simp] theorem State.sightAgain_resetScheduled (s : State) (r : RunNo) (w : WandPort) (n : U32) (x i : Nat) (e : Entry) (l : LastSighting) : ((s.sightAgain r w n x i e l).2).resetScheduled = s.resetScheduled := by
  unfold State.sightAgain; dsimp only; (repeat' split) <;> simp
@[simp] theorem State.sightAgain_passSerial (s : State) (r : RunNo) (w : WandPort) (n : U32) (x i : Nat) (e : Entry) (l : LastSighting) : ((s.sightAgain r w n x i e l).2).passSerial = s.passSerial := by
  unfold State.sightAgain; dsimp only; (repeat' split) <;> simp
@[simp] theorem State.sightAgain_wands (s : State) (r : RunNo) (w : WandPort) (n : U32) (x i : Nat) (e : Entry) (l : LastSighting) : ((s.sightAgain r w n x i e l).2).wands = s.wands := by
  unfold State.sightAgain; dsimp only; (repeat' split) <;> simp
@[simp] theorem State.sightAgain_strays (s : State) (r : RunNo) (w : WandPort) (n : U32) (x i : Nat) (e : Entry) (l : LastSighting) : ((s.sightAgain r w n x i e l).2).strays = s.strays := by
  unfold State.sightAgain; dsimp only; (repeat' split) <;> simp

/-! ### State.arrive -/

@[simp] theorem State.arrive_pending (s : State) (r : RunNo) (w : WandPort) (p : PassRecord) (i : Nat) (k : ShelfKey) : (s.arrive r w p i k).pending = s.pending := by
  unfold State.arrive; dsimp only; (repeat' split) <;> simp
@[simp] theorem State.arrive_pins (s : State) (r : RunNo) (w : WandPort) (p : PassRecord) (i : Nat) (k : ShelfKey) : (s.arrive r w p i k).pins = s.pins := by
  unfold State.arrive; dsimp only; (repeat' split) <;> simp
@[simp] theorem State.arrive_receiving (s : State) (r : RunNo) (w : WandPort) (p : PassRecord) (i : Nat) (k : ShelfKey) : (s.arrive r w p i k).receiving = s.receiving := by
  unfold State.arrive; dsimp only; (repeat' split) <;> simp
@[simp] theorem State.arrive_mode (s : State) (r : RunNo) (w : WandPort) (p : PassRecord) (i : Nat) (k : ShelfKey) : (s.arrive r w p i k).mode = s.mode := by
  unfold State.arrive; dsimp only; (repeat' split) <;> simp
@[simp] theorem State.arrive_config (s : State) (r : RunNo) (w : WandPort) (p : PassRecord) (i : Nat) (k : ShelfKey) : (s.arrive r w p i k).config = s.config := by
  unfold State.arrive; dsimp only; (repeat' split) <;> simp
@[simp] theorem State.arrive_clock (s : State) (r : RunNo) (w : WandPort) (p : PassRecord) (i : Nat) (k : ShelfKey) : (s.arrive r w p i k).clock = s.clock := by
  unfold State.arrive; dsimp only; (repeat' split) <;> simp
@[simp] theorem State.arrive_operation (s : State) (r : RunNo) (w : WandPort) (p : PassRecord) (i : Nat) (k : ShelfKey) : (s.arrive r w p i k).operation = s.operation := by
  unfold State.arrive; dsimp only; (repeat' split) <;> simp
@[simp] theorem State.arrive_resetScheduled (s : State) (r : RunNo) (w : WandPort) (p : PassRecord) (i : Nat) (k : ShelfKey) : (s.arrive r w p i k).resetScheduled = s.resetScheduled := by
  unfold State.arrive; dsimp only; (repeat' split) <;> simp
@[simp] theorem State.arrive_passSerial (s : State) (r : RunNo) (w : WandPort) (p : PassRecord) (i : Nat) (k : ShelfKey) : (s.arrive r w p i k).passSerial = s.passSerial := by
  unfold State.arrive; dsimp only; (repeat' split) <;> simp
@[simp] theorem State.arrive_wands (s : State) (r : RunNo) (w : WandPort) (p : PassRecord) (i : Nat) (k : ShelfKey) : (s.arrive r w p i k).wands = s.wands := by
  unfold State.arrive; dsimp only; (repeat' split) <;> simp
@[simp] theorem State.arrive_strays (s : State) (r : RunNo) (w : WandPort) (p : PassRecord) (i : Nat) (k : ShelfKey) : (s.arrive r w p i k).strays = s.strays := by
  unfold State.arrive; dsimp only; (repeat' split) <;> simp

/-! ### State.visit -/

@[simp] theorem State.visit_pending (s : State) (r : RunNo) (w : WandPort) (x i : Nat) (e : Entry) : (s.visit r w x i e).pending = s.pending := by
  simp [State.visit]
@[simp] theorem State.visit_pins (s : State) (r : RunNo) (w : WandPort) (x i : Nat) (e : Entry) : (s.visit r w x i e).pins = s.pins := by
  simp [State.visit]
@[simp] theorem State.visit_receiving (s : State) (r : RunNo) (w : WandPort) (x i : Nat) (e : Entry) : (s.visit r w x i e).receiving = s.receiving := by
  simp [State.visit]
@[simp] theorem State.visit_mode (s : State) (r : RunNo) (w : WandPort) (x i : Nat) (e : Entry) : (s.visit r w x i e).mode = s.mode := by
  simp [State.visit]
@[simp] theorem State.visit_config (s : State) (r : RunNo) (w : WandPort) (x i : Nat) (e : Entry) : (s.visit r w x i e).config = s.config := by
  simp [State.visit]
@[simp] theorem State.visit_clock (s : State) (r : RunNo) (w : WandPort) (x i : Nat) (e : Entry) : (s.visit r w x i e).clock = s.clock := by
  simp [State.visit]
@[simp] theorem State.visit_operation (s : State) (r : RunNo) (w : WandPort) (x i : Nat) (e : Entry) : (s.visit r w x i e).operation = s.operation := by
  simp [State.visit]
@[simp] theorem State.visit_resetScheduled (s : State) (r : RunNo) (w : WandPort) (x i : Nat) (e : Entry) : (s.visit r w x i e).resetScheduled = s.resetScheduled := by
  simp [State.visit]
@[simp] theorem State.visit_passSerial (s : State) (r : RunNo) (w : WandPort) (x i : Nat) (e : Entry) : (s.visit r w x i e).passSerial = s.passSerial := by
  simp [State.visit]
@[simp] theorem State.visit_wands (s : State) (r : RunNo) (w : WandPort) (x i : Nat) (e : Entry) : (s.visit r w x i e).wands = s.wands := by
  simp [State.visit]
@[simp] theorem State.visit_strays (s : State) (r : RunNo) (w : WandPort) (x i : Nat) (e : Entry) : (s.visit r w x i e).strays = s.strays := by
  simp [State.visit]

/-! ### State.sightFresh -/

@[simp] theorem State.sightFresh_pending (s : State) (r : RunNo) (w : WandPort) (n : U32) (x i : Nat) (e : Entry) : ((s.sightFresh r w n x i e).2).pending = s.pending := by
  unfold State.sightFresh; dsimp only; (repeat' split) <;> simp
@[simp] theorem State.sightFresh_pins (s : State) (r : RunNo) (w : WandPort) (n : U32) (x i : Nat) (e : Entry) : ((s.sightFresh r w n x i e).2).pins = s.pins := by
  unfold State.sightFresh; dsimp only; (repeat' split) <;> simp
@[simp] theorem State.sightFresh_receiving (s : State) (r : RunNo) (w : WandPort) (n : U32) (x i : Nat) (e : Entry) : ((s.sightFresh r w n x i e).2).receiving = s.receiving := by
  unfold State.sightFresh; dsimp only; (repeat' split) <;> simp
@[simp] theorem State.sightFresh_mode (s : State) (r : RunNo) (w : WandPort) (n : U32) (x i : Nat) (e : Entry) : ((s.sightFresh r w n x i e).2).mode = s.mode := by
  unfold State.sightFresh; dsimp only; (repeat' split) <;> simp
@[simp] theorem State.sightFresh_config (s : State) (r : RunNo) (w : WandPort) (n : U32) (x i : Nat) (e : Entry) : ((s.sightFresh r w n x i e).2).config = s.config := by
  unfold State.sightFresh; dsimp only; (repeat' split) <;> simp
@[simp] theorem State.sightFresh_clock (s : State) (r : RunNo) (w : WandPort) (n : U32) (x i : Nat) (e : Entry) : ((s.sightFresh r w n x i e).2).clock = s.clock := by
  unfold State.sightFresh; dsimp only; (repeat' split) <;> simp
@[simp] theorem State.sightFresh_operation (s : State) (r : RunNo) (w : WandPort) (n : U32) (x i : Nat) (e : Entry) : ((s.sightFresh r w n x i e).2).operation = s.operation := by
  unfold State.sightFresh; dsimp only; (repeat' split) <;> simp
@[simp] theorem State.sightFresh_resetScheduled (s : State) (r : RunNo) (w : WandPort) (n : U32) (x i : Nat) (e : Entry) : ((s.sightFresh r w n x i e).2).resetScheduled = s.resetScheduled := by
  unfold State.sightFresh; dsimp only; (repeat' split) <;> simp
@[simp] theorem State.sightFresh_passSerial (s : State) (r : RunNo) (w : WandPort) (n : U32) (x i : Nat) (e : Entry) : ((s.sightFresh r w n x i e).2).passSerial = s.passSerial := by
  unfold State.sightFresh; dsimp only; (repeat' split) <;> simp
@[simp] theorem State.sightFresh_wands (s : State) (r : RunNo) (w : WandPort) (n : U32) (x i : Nat) (e : Entry) : ((s.sightFresh r w n x i e).2).wands = s.wands := by
  unfold State.sightFresh; dsimp only; (repeat' split) <;> simp
@[simp] theorem State.sightFresh_strays (s : State) (r : RunNo) (w : WandPort) (n : U32) (x i : Nat) (e : Entry) : ((s.sightFresh r w n x i e).2).strays = s.strays := by
  unfold State.sightFresh; dsimp only; (repeat' split) <;> simp

/-! ### State.classify -/

@[simp] theorem State.classify_pending (s : State) (r : RunNo) (w : WandPort) (n : U32) (x : Nat) (b : Bool) (t : Tag) : ((s.classify r w n x b t).2).pending = s.pending := by
  unfold State.classify; dsimp only; (repeat' split) <;> simp
@[simp] theorem State.classify_pins (s : State) (r : RunNo) (w : WandPort) (n : U32) (x : Nat) (b : Bool) (t : Tag) : ((s.classify r w n x b t).2).pins = s.pins := by
  unfold State.classify; dsimp only; (repeat' split) <;> simp
@[simp] theorem State.classify_receiving (s : State) (r : RunNo) (w : WandPort) (n : U32) (x : Nat) (b : Bool) (t : Tag) : ((s.classify r w n x b t).2).receiving = s.receiving := by
  unfold State.classify; dsimp only; (repeat' split) <;> simp
@[simp] theorem State.classify_mode (s : State) (r : RunNo) (w : WandPort) (n : U32) (x : Nat) (b : Bool) (t : Tag) : ((s.classify r w n x b t).2).mode = s.mode := by
  unfold State.classify; dsimp only; (repeat' split) <;> simp
@[simp] theorem State.classify_config (s : State) (r : RunNo) (w : WandPort) (n : U32) (x : Nat) (b : Bool) (t : Tag) : ((s.classify r w n x b t).2).config = s.config := by
  unfold State.classify; dsimp only; (repeat' split) <;> simp
@[simp] theorem State.classify_clock (s : State) (r : RunNo) (w : WandPort) (n : U32) (x : Nat) (b : Bool) (t : Tag) : ((s.classify r w n x b t).2).clock = s.clock := by
  unfold State.classify; dsimp only; (repeat' split) <;> simp
@[simp] theorem State.classify_operation (s : State) (r : RunNo) (w : WandPort) (n : U32) (x : Nat) (b : Bool) (t : Tag) : ((s.classify r w n x b t).2).operation = s.operation := by
  unfold State.classify; dsimp only; (repeat' split) <;> simp
@[simp] theorem State.classify_resetScheduled (s : State) (r : RunNo) (w : WandPort) (n : U32) (x : Nat) (b : Bool) (t : Tag) : ((s.classify r w n x b t).2).resetScheduled = s.resetScheduled := by
  unfold State.classify; dsimp only; (repeat' split) <;> simp
@[simp] theorem State.classify_passSerial (s : State) (r : RunNo) (w : WandPort) (n : U32) (x : Nat) (b : Bool) (t : Tag) : ((s.classify r w n x b t).2).passSerial = s.passSerial := by
  unfold State.classify; dsimp only; (repeat' split) <;> simp
@[simp] theorem State.classify_wands (s : State) (r : RunNo) (w : WandPort) (n : U32) (x : Nat) (b : Bool) (t : Tag) : ((s.classify r w n x b t).2).wands = s.wands := by
  unfold State.classify; dsimp only; (repeat' split) <;> simp

/-! ### State.sightOne -/

@[simp] theorem State.sightOne_pending (s : State) (r : RunNo) (w : WandPort) (x : Sighting) : ((s.sightOne r w x).2).pending = s.pending := by
  unfold State.sightOne; dsimp only; (repeat' split) <;> simp
@[simp] theorem State.sightOne_pins (s : State) (r : RunNo) (w : WandPort) (x : Sighting) : ((s.sightOne r w x).2).pins = s.pins := by
  unfold State.sightOne; dsimp only; (repeat' split) <;> simp
@[simp] theorem State.sightOne_receiving (s : State) (r : RunNo) (w : WandPort) (x : Sighting) : ((s.sightOne r w x).2).receiving = s.receiving := by
  unfold State.sightOne; dsimp only; (repeat' split) <;> simp
@[simp] theorem State.sightOne_mode (s : State) (r : RunNo) (w : WandPort) (x : Sighting) : ((s.sightOne r w x).2).mode = s.mode := by
  unfold State.sightOne; dsimp only; (repeat' split) <;> simp
@[simp] theorem State.sightOne_config (s : State) (r : RunNo) (w : WandPort) (x : Sighting) : ((s.sightOne r w x).2).config = s.config := by
  unfold State.sightOne; dsimp only; (repeat' split) <;> simp
@[simp] theorem State.sightOne_clock (s : State) (r : RunNo) (w : WandPort) (x : Sighting) : ((s.sightOne r w x).2).clock = s.clock := by
  unfold State.sightOne; dsimp only; (repeat' split) <;> simp
@[simp] theorem State.sightOne_operation (s : State) (r : RunNo) (w : WandPort) (x : Sighting) : ((s.sightOne r w x).2).operation = s.operation := by
  unfold State.sightOne; dsimp only; (repeat' split) <;> simp
@[simp] theorem State.sightOne_resetScheduled (s : State) (r : RunNo) (w : WandPort) (x : Sighting) : ((s.sightOne r w x).2).resetScheduled = s.resetScheduled := by
  unfold State.sightOne; dsimp only; (repeat' split) <;> simp
@[simp] theorem State.sightOne_passSerial (s : State) (r : RunNo) (w : WandPort) (x : Sighting) : ((s.sightOne r w x).2).passSerial = s.passSerial := by
  unfold State.sightOne; dsimp only; (repeat' split) <;> simp
@[simp] theorem State.sightOne_wands (s : State) (r : RunNo) (w : WandPort) (x : Sighting) : ((s.sightOne r w x).2).wands = s.wands := by
  unfold State.sightOne; dsimp only; (repeat' split) <;> simp

/-! ### State.sightAll -/

@[simp] theorem State.sightAll_pending (s : State) (r : RunNo) (w : WandPort) (xs : List Sighting) : ((s.sightAll r w xs).2).pending = s.pending := by
  induction xs generalizing s with
  | nil => rfl
  | cons x xs ih => simp [State.sightAll, ih]
@[simp] theorem State.sightAll_pins (s : State) (r : RunNo) (w : WandPort) (xs : List Sighting) : ((s.sightAll r w xs).2).pins = s.pins := by
  induction xs generalizing s with
  | nil => rfl
  | cons x xs ih => simp [State.sightAll, ih]
@[simp] theorem State.sightAll_receiving (s : State) (r : RunNo) (w : WandPort) (xs : List Sighting) : ((s.sightAll r w xs).2).receiving = s.receiving := by
  induction xs generalizing s with
  | nil => rfl
  | cons x xs ih => simp [State.sightAll, ih]
@[simp] theorem State.sightAll_mode (s : State) (r : RunNo) (w : WandPort) (xs : List Sighting) : ((s.sightAll r w xs).2).mode = s.mode := by
  induction xs generalizing s with
  | nil => rfl
  | cons x xs ih => simp [State.sightAll, ih]
@[simp] theorem State.sightAll_config (s : State) (r : RunNo) (w : WandPort) (xs : List Sighting) : ((s.sightAll r w xs).2).config = s.config := by
  induction xs generalizing s with
  | nil => rfl
  | cons x xs ih => simp [State.sightAll, ih]
@[simp] theorem State.sightAll_clock (s : State) (r : RunNo) (w : WandPort) (xs : List Sighting) : ((s.sightAll r w xs).2).clock = s.clock := by
  induction xs generalizing s with
  | nil => rfl
  | cons x xs ih => simp [State.sightAll, ih]
@[simp] theorem State.sightAll_operation (s : State) (r : RunNo) (w : WandPort) (xs : List Sighting) : ((s.sightAll r w xs).2).operation = s.operation := by
  induction xs generalizing s with
  | nil => rfl
  | cons x xs ih => simp [State.sightAll, ih]
@[simp] theorem State.sightAll_resetScheduled (s : State) (r : RunNo) (w : WandPort) (xs : List Sighting) : ((s.sightAll r w xs).2).resetScheduled = s.resetScheduled := by
  induction xs generalizing s with
  | nil => rfl
  | cons x xs ih => simp [State.sightAll, ih]
@[simp] theorem State.sightAll_passSerial (s : State) (r : RunNo) (w : WandPort) (xs : List Sighting) : ((s.sightAll r w xs).2).passSerial = s.passSerial := by
  induction xs generalizing s with
  | nil => rfl
  | cons x xs ih => simp [State.sightAll, ih]
@[simp] theorem State.sightAll_wands (s : State) (r : RunNo) (w : WandPort) (xs : List Sighting) : ((s.sightAll r w xs).2).wands = s.wands := by
  induction xs generalizing s with
  | nil => rfl
  | cons x xs ih => simp [State.sightAll, ih]

end Sys2Proof.Machine
end

