-- ==== Sys2Proof/Laws/Link.lean ====
section
/-! SUPPORT. The link ports: a frame's bytes make that frame again, a whole frame received is offered to the buffer, and
a request that a port can take at once is handled and answered. -/
namespace Sys2Proof

/-! ## Kinds and lengths of requests (R169) -/

@[simp] theorem RequestKind.ofByte_code (k : RequestKind) : RequestKind.ofByte? k.code = some k := by
  cases k <;> rfl

theorem sightings_length (xs : List Sighting) : (xs.flatMap sightingBytes).length = 10 * xs.length := by
  induction xs with
  | nil => rfl
  | cons x xs ih => simp [ih]; omega

/-- The payload of a well-formed request has the length that R169 gives for its kind. -/
theorem Instr.request_lengthOk {c : Instr} {p : Port} {k : RequestKind} {payload : List Byte}
    (hw : c.wellFormed = true) (h : c.request = some (p, k, payload)) : k.lengthOk payload.length = true := by
  cases c <;> simp only [Instr.request, Option.some.injEq, Prod.mk.injEq, reduceCtorEq] at h <;>
    obtain ⟨rfl, rfl, rfl⟩ := h <;> try rfl
  case sight p xs =>
    simp only [Instr.wellFormed, Bool.and_eq_true, decide_eq_true_eq] at hw
    obtain ⟨h1, h8⟩ := hw
    rw [sightings_length]
    interval_cases xs.length <;> rfl

/-- No payload that passes the length check is longer than a frame can carry (R165). -/
theorem RequestKind.length_of_ok {k : RequestKind} {n : Nat} (h : k.lengthOk n = true) : n ≤ 80 := by
  cases k <;> simp [RequestKind.lengthOk] at h <;> omega

namespace Machine

/-! ## Frames and their bytes (R165) -/

theorem lastTwo_append (xs : List Byte) (a b : Byte) : lastTwo (xs ++ [a, b]) = u16Of a b := by
  induction xs with
  | nil => rfl
  | cons x xs ih =>
    cases xs with
    | nil => rfl
    | cons y ys =>
      cases ys with
      | nil => rfl
      | cons z zs => exact ih

/-- The bytes of a frame, collected, make that frame. -/
@[simp] theorem frameOf_bytes (f : Frame) : frameOf f.bytes = f := by
  obtain ⟨kind, payload, check⟩ := f
  simp [Frame.bytes, Frame.checked, frameOf, u16Bytes, lastTwo_append]

theorem Frame.bytes_eq (f : Frame) :
    f.bytes = 0xA5#8 :: BitVec.ofNat 8 (f.payload.length + 1) :: f.kind :: (f.payload ++ u16Bytes f.check) := rfl

@[simp] theorem Frame.make_kind (k : Byte) (payload : List Byte) : (Frame.make k payload).kind = k := rfl
@[simp] theorem Frame.make_payload (k : Byte) (payload : List Byte) : (Frame.make k payload).payload = payload := rfl

/-- A frame made for a kind and a payload of its length passes the three frame checks (R168). -/
theorem Frame.make_accepted {k : RequestKind} {payload : List Byte} (h : k.lengthOk payload.length = true) :
    (Frame.make k.code payload).reject? = none := by
  have hc : crc (Frame.make k.code payload).checked = (Frame.make k.code payload).check := rfl
  simp [Frame.reject?, hc, h]

/-! ## Receiving a whole frame (R167) -/

/-- Collecting on: the bytes still to come complete the frame. -/
theorem LinkPort.collect (q : LinkPort) (start n : Byte) (got rest : List Byte)
    (h : got.length + rest.length = n.toNat + 2) (hr : rest ≠ []) :
    rest.foldl LinkPort.receiveByte { q with receiver := .collecting (start :: n :: got) } =
      { q with receiver := .hunting }.offerFrame (frameOf (start :: n :: (got ++ rest))) := by
  induction rest generalizing got with
  | nil => exact absurd rfl hr
  | cons b rest ih =>
    cases rest with
    | nil =>
      simp only [List.length_cons, List.length_nil] at h
      simp [LinkPort.receiveByte, show got.length + 1 + 1 + 1 = n.toNat + 4 by omega]
    | cons c rest =>
      simp only [List.length_cons] at h
      have := ih (got ++ [b]) (by simp; omega) (by simp)
      simp only [List.append_assoc, List.cons_append, List.nil_append] at this
      rw [List.foldl_cons, ← this]
      congr 1
      simp [LinkPort.receiveByte, show ¬ got.length = n.toNat + 1 by omega]

/-- The bytes of a whole frame, received while hunting, offer that frame to the buffer. -/
theorem LinkPort.receive_whole {q : LinkPort} {bytes : List Byte} (hq : q.receiver = .hunting)
    (hb : wholeFrame bytes = true) : bytes.foldl LinkPort.receiveByte q = q.offerFrame (frameOf bytes) := by
  match bytes, hb with
  | start :: n :: rest, hb =>
    simp only [wholeFrame, Bool.and_eq_true, beq_iff_eq, decide_eq_true_eq] at hb
    obtain ⟨⟨⟨hs, h1⟩, h2⟩, hl⟩ := hb
    have hq' : { q with receiver := .hunting } = q := by rw [← hq]
    have e : List.foldl LinkPort.receiveByte q (start :: n :: rest) =
        rest.foldl LinkPort.receiveByte { q with receiver := .collecting [start, n] } := by
      have hn : ¬ (n.toNat = 0 ∨ Config.frameLengthMax < n.toNat) := by omega
      have h0 : q.receiveByte start = { q with receiver := .collecting [start] } := by
        simp [LinkPort.receiveByte, hq, hs]
      have h1 : LinkPort.receiveByte { q with receiver := .collecting [start] } n =
          { q with receiver := .collecting [start, n] } := by
        simp only [LinkPort.receiveByte, if_neg hn]
      rw [List.foldl_cons, List.foldl_cons, h0, h1]
    rw [e, q.collect start n [] rest (by simpa using hl) (by rintro rfl; simp at hl), hq']
    rfl

theorem Frame.bytes_whole {f : Frame} (h : f.payload.length + 1 ≤ Config.frameLengthMax) :
    wholeFrame f.bytes = true := by
  have hn : (BitVec.ofNat 8 (f.payload.length + 1)).toNat = f.payload.length + 1 := by
    have : Config.frameLengthMax = 250 := rfl
    simp only [BitVec.toNat_ofNat]
    omega
  rw [Frame.bytes_eq]
  simp only [wholeFrame, hn]
  simp
  exact h

/-- A port that receives and hunts takes a whole frame as an offer to its buffer. -/
theorem State.receiveFrame_whole {s : State} {p : Port} {f : Frame} (hr : s.canReceive p = true)
    (hq : (s.port p).receiver = .hunting) (hf : f.payload.length + 1 ≤ Config.frameLengthMax) :
    s.receiveFrame p f.bytes = s.updatePort p (·.offerFrame f) := by
  have hw := Frame.bytes_whole hf
  simp only [State.receiveFrame, State.receive, hr, if_true, LinkPort.remaining, hq, State.updatePort]
  congr 1
  congr 1
  exact (LinkPort.receive_whole hq hw).trans (by rw [frameOf_bytes]; rfl)

/-! ## The receive buffer (R168) -/

theorem LinkPort.offerFrame_room {q : LinkPort} (f : Frame) (h : q.buffer.length < Config.bufferCapacity) :
    q.offerFrame f = { q with inbox := q.inbox ++ [{ frame := f, buffered := true, phase := .unhandled }] } := by
  simp [LinkPort.offerFrame, h]

theorem firstUnhandled_append (xs : List Slot) (x : Slot) (h : firstUnhandled xs = none)
    (hx : x.phase = .unhandled) : firstUnhandled (xs ++ [x]) = some x := by
  induction xs with
  | nil => simp [firstUnhandled, hx]
  | cons y ys ih =>
    simp only [firstUnhandled] at h
    split at h
    · cases h
    · simp [firstUnhandled, *]

theorem respondFirst_append (r : Response) (xs : List Slot) (x : Slot) (h : firstUnhandled xs = none)
    (hx : x.phase = .unhandled) : respondFirst r (xs ++ [x]) = xs ++ [{ x with phase := .waiting r }] := by
  induction xs with
  | nil => simp [respondFirst, hx]
  | cons y ys ih =>
    simp only [firstUnhandled] at h
    split at h
    · cases h
    · simp [respondFirst, *]

theorem LinkPort.next_none {q : LinkPort} (h : q.next? = none) : firstUnhandled q.inbox = none := by
  simpa [LinkPort.next?] using h

/-! ## Expiries that are not due -/

theorem State.settle_quiet {s : State} (h : s.expiriesDue = []) : s.settle = s := by simp [State.settle, h]

/-- An event of a quiet part is its own effect, after which the lines choose. -/
theorem event_quiet (f : State → State) {s : State} (h : s.Quiet) : event f s = (f s).kick := by
  simp [event, h.1, State.settle_quiet h.2]

/-! ## The arrival and the handling of a request -/

theorem State.arrived_eq {s : State} {c : Instr} {p : Port} {k : RequestKind} {payload : List Byte}
    (h : c.request = some (p, k, payload)) :
    s.arrived c = s.updatePort p fun q => { q with inbox := q.inbox ++ [arrivalSlot k payload] } := by
  simp [State.arrived, h]

theorem State.responded_eq {s : State} {c : Instr} {p : Port} {k : RequestKind} {payload : List Byte}
    (h : c.request = some (p, k, payload)) (x : Condition) (d : Data) :
    s.responded c x d = (s.updatePort p (·.respond { kind := k.code, condition := x, data := d })).kick := by
  simp [State.responded, h]

/-- What the role test and the mode test make of a request's serving (11.4.1). -/
def State.servedAt (s : State) (p : Port) (k : RequestKind) (serve : State → Served) : Served :=
  if k.inRole p.role then
    match k.modeTest s.mode with
    | some x => refuse x s
    | none => serve s
  else refuse .role s

/-- A well-formed request that its port can take at once arrives, is admitted and is answered. -/
theorem request_ready {c : Instr} {p : Port} {k : RequestKind} {payload : List Byte} {s : State}
    (serve : State → Served) (hc : c.request = some (p, k, payload)) (hw : c.wellFormed = true) (hs : s.Ready p) :
    request c serve s =
      ((s.arrived c).servedAt p k serve).state.responded c ((s.arrived c).servedAt p k serve).condition
        ((s.arrived c).servedAt p k serve).data := by
  obtain ⟨⟨hlow, hdue⟩, hrec, hhunt, hnext, hroom, hblk⟩ := hs
  have hlen := Instr.request_lengthOk hw hc
  have hmax := RequestKind.length_of_ok hlen
  have hslot : s.receiveFrame p (Frame.make k.code payload).bytes = s.arrived c := by
    rw [State.receiveFrame_whole hrec hhunt (by simp only [Frame.make_payload, Config.frameLengthMax]; omega), State.arrived_eq hc]
    simp only [State.updatePort]
    congr 2
    exact LinkPort.offerFrame_room _ hroom
  have hfirst : ((s.arrived c).port p).next? = some (Frame.make k.code payload) := by
    rw [State.arrived_eq hc, State.port_updatePort_self]
    have := firstUnhandled_append _ (arrivalSlot k payload) (LinkPort.next_none hnext) rfl
    simp only [LinkPort.next?, this, Option.map_some]
    rfl
  have hblk' : (s.arrived c).blocked p = false := by
    rw [State.arrived_eq hc]
    exact hblk
  simp only [request, hc, hlow, State.settle_quiet hdue, hnext, hslot, hfirst, hblk', reduceCtorEq, if_false,
    Bool.false_eq_true, and_self, if_true, State.handle, Frame.make_accepted hlen, State.responded_eq hc]
  rfl

/-- A request outside the request set of the port's role is refused ROLE (R164). -/
theorem request_role {c : Instr} {p : Port} {k : RequestKind} {payload : List Byte} {s : State}
    (serve : State → Served) (hc : c.request = some (p, k, payload)) (hw : c.wellFormed = true) (hs : s.Ready p)
    (hr : k.inRole p.role = false) : request c serve s = (s.arrived c).responded c .role .empty := by
  rw [request_ready serve hc hw hs]
  simp [State.servedAt, hr, refuse]

theorem State.arrived_modeTest (s : State) (c : Instr) (k : RequestKind) :
    k.modeTest (s.arrived c).mode = k.modeTest s.mode := by
  unfold State.arrived
  split <;> rfl

/-- A request that the mode refuses is answered with that condition (R152, R160). -/
theorem request_mode {c : Instr} {p : Port} {k : RequestKind} {payload : List Byte} {s : State} {x : Condition}
    (serve : State → Served) (hc : c.request = some (p, k, payload)) (hw : c.wellFormed = true) (hs : s.Ready p)
    (hr : k.inRole p.role = true) (hm : k.modeTest s.mode = some x) :
    request c serve s = (s.arrived c).responded c x .empty := by
  rw [request_ready serve hc hw hs]
  simp [State.servedAt, hr, State.arrived_modeTest, hm, refuse]

/-- A request that passes the role and mode tests is served by its own rule and answered. -/
theorem request_taken {c : Instr} {p : Port} {k : RequestKind} {payload : List Byte} {s : State}
    (serve : State → Served) (hc : c.request = some (p, k, payload)) (hw : c.wellFormed = true) (hs : s.Ready p)
    (hr : k.inRole p.role = true) (hm : k.modeTest s.mode = none) :
    request c serve s =
      (serve (s.arrived c)).state.responded c (serve (s.arrived c)).condition (serve (s.arrived c)).data := by
  rw [request_ready serve hc hw hs]
  simp [State.servedAt, hr, State.arrived_modeTest, hm]

/-! ## The transmit line (R149) -/

theorem LinkPort.choose_busy (q : LinkPort) (h : q.line ≠ .idle) : q.choose = q := by
  unfold LinkPort.choose
  split <;> simp_all

/-- A line that has chosen has nothing more to choose. -/
@[simp] theorem LinkPort.choose_choose (q : LinkPort) : q.choose.choose = q.choose := by
  by_cases hi : q.line = .idle
  · by_cases hc : q.choose.line = .idle
    · have hq : q.choose = q := by
        unfold LinkPort.choose at hc ⊢
        rw [hi] at hc ⊢
        simp only at hc ⊢
        (repeat' split at hc) <;> simp_all
      rw [hq, hq]
    · exact LinkPort.choose_busy _ hc
  · rw [LinkPort.choose_busy _ hi, LinkPort.choose_busy _ hi]

@[simp] theorem State.kick_kick (s : State) : s.kick.kick = s.kick := by
  simp [State.kick, PortMap.map]

end Machine

end Sys2Proof
end

