-- ==== Sys2Proof/Laws/Invariant.lean ====
section
/-! SUPPORT. What the handling that all requests share, and all events share, keeps: a property or a view of the state
that the parts of the handling keep is kept by the whole. -/
namespace Sys2Proof.Machine

/-! ## Properties -/

/-- A property that expiries and the lines keep is kept by settling. -/
theorem State.settle_keeps {P : State → Prop} (hk : ∀ s, P s → P s.kick)
    (hr : ∀ s r, P s → P (s.releaseClaim r .expired)) {s : State} (h : P s) : P s.settle := by
  have hfold : ∀ (due : List RunNo) (s : State), P s → P (due.foldl (fun s r => s.releaseClaim r .expired) s) := by
    intro due
    induction due with
    | nil => exact fun s h => h
    | cons r due ih => exact fun s h => ih _ (hr s r h)
  unfold State.settle
  split
  · exact h
  · exact hk _ (hfold _ s h)

/-- A property that answers keep, and that the request's own rule keeps once it is admitted, is kept by the handling. -/
theorem State.handle_keeps {P : State → Prop} {serve : State → Served} {p : Port} {k : RequestKind}
    (hresp : ∀ s p r, P s → P (s.updatePort p (·.respond r)))
    (hserve : ∀ s, k.inRole p.role = true → k.modeTest s.mode = none → P s → P (serve s).state)
    {s : State} (h : P s) (f : Frame) : P (s.handle p k f serve) := by
  unfold State.handle
  split
  · exact hresp _ _ _ h
  · apply hresp
    split_ifs with hrole
    · split
      · exact h
      · next hm => exact hserve s hrole hm h
    · exact h

/-- A property that settling, bytes, answers and lines keep, and that the request's own rule keeps once it is admitted,
is kept by the request. -/
theorem request_keeps {P : State → Prop} {c : Instr} {serve : State → Served} (hset : ∀ s, P s → P s.settle)
    (hbytes : ∀ s p bytes, P s → P (s.receive p bytes))
    (hresp : ∀ s p r, P s → P (s.updatePort p (·.respond r))) (hk : ∀ s, P s → P s.kick)
    (hserve : ∀ s p k payload, c.request = some (p, k, payload) → k.inRole p.role = true →
      k.modeTest s.mode = none → P s → P (serve s).state)
    {s : State} (h : P s) : P (request c serve s) := by
  unfold request
  split
  · exact h
  · next p k payload hc =>
    by_cases hl : s.pins.resetLow = true
    · rw [if_pos hl]
      exact h
    · rw [if_neg hl]
      apply hk
      have hkeep (t : State) (ht : P t) (f : Frame) : P (if (t.port p).next? = some f ∧ t.blocked p = false
          then t.handle p k f serve else t) := by
        split_ifs
        · exact State.handle_keeps hresp (fun u hr hm hu => hserve u p k payload hc hr hm hu) ht f
        · exact ht
      apply hkeep
      split_ifs
      · exact hset s h
      · exact hbytes _ _ _ (hset s h)

/-- A property that settling, lines and the event's own effect keep is kept by the event. -/
theorem event_keeps {P : State → Prop} {f : State → State} (hset : ∀ s, P s → P s.settle) (hk : ∀ s, P s → P s.kick)
    (hf : ∀ s, P s → P (f s)) {s : State} (h : P s) : P (event f s) := by
  unfold event
  split_ifs
  · exact h
  · exact hk _ (hf _ (hset s h))

/-! ## The fields that settling leaves -/

section Settle
variable {β : Type} (view : State → β)

theorem State.settle_view (hk : ∀ s, view s.kick = view s)
    (hr : ∀ s r, view (s.releaseClaim r .expired) = view s) (s : State) : view s.settle = view s :=
  State.settle_keeps (P := fun t => view t = view s) (fun t h => (hk t).trans h) (fun t r h => (hr t r).trans h) rfl

end Settle

@[simp] theorem State.settle_pending (s : State) : s.settle.pending = s.pending :=
  s.settle_view State.pending (by simp) (by simp)
@[simp] theorem State.settle_pins (s : State) : s.settle.pins = s.pins :=
  s.settle_view State.pins (by simp) (by simp)
@[simp] theorem State.settle_receiving (s : State) : s.settle.receiving = s.receiving :=
  s.settle_view State.receiving (by simp) (by simp)
@[simp] theorem State.settle_mode (s : State) : s.settle.mode = s.mode :=
  s.settle_view State.mode (by simp) (by simp)
@[simp] theorem State.settle_config (s : State) : s.settle.config = s.config :=
  s.settle_view State.config (by simp) (by simp)
@[simp] theorem State.settle_clock (s : State) : s.settle.clock = s.clock :=
  s.settle_view State.clock (by simp) (by simp)
@[simp] theorem State.settle_operation (s : State) : s.settle.operation = s.operation :=
  s.settle_view State.operation (by simp) (by simp)
@[simp] theorem State.settle_resetScheduled (s : State) : s.settle.resetScheduled = s.resetScheduled :=
  s.settle_view State.resetScheduled (by simp) (by simp)
@[simp] theorem State.settle_pool (s : State) : s.settle.pool = s.pool :=
  s.settle_view State.pool (by simp) (by simp)
@[simp] theorem State.settle_passSerial (s : State) : s.settle.passSerial = s.passSerial :=
  s.settle_view State.passSerial (by simp) (by simp)
@[simp] theorem State.settle_strays (s : State) : s.settle.strays = s.strays :=
  s.settle_view State.strays (by simp) (by simp)

/-! ## Views -/

/-- A view of the state that ports do not show, expiries keep and the request's own rule keeps is kept by the
request. -/
theorem request_view {β : Type} (view : State → β) {c : Instr} {serve : State → Served}
    (hport : ∀ s p g, view (s.updatePort p g) = view s) (hk : ∀ s, view s.kick = view s)
    (hr : ∀ s r, view (s.releaseClaim r .expired) = view s) (hserve : ∀ s, view (serve s).state = view s) (s : State) :
    view (request c serve s) = view s :=
  request_keeps (P := fun t => view t = view s) (fun t h => (t.settle_view view hk hr).trans h)
    (fun t p bytes h => by
      unfold State.receive
      split_ifs
      · exact (hport t p _).trans h
      · exact h)
    (fun t p r h => (hport t p _).trans h) (fun t h => (hk t).trans h)
    (fun t _ _ _ _ _ _ h => (hserve t).trans h) rfl

/-- A view of the state that expiries and the event's own effect keep is kept by the event. -/
theorem event_view {β : Type} (view : State → β) {f : State → State} (hk : ∀ s, view s.kick = view s)
    (hr : ∀ s r, view (s.releaseClaim r .expired) = view s) (hf : ∀ s, view (f s) = view s) (s : State) :
    view (event f s) = view s :=
  event_keeps (P := fun t => view t = view s) (fun t h => (t.settle_view view hk hr).trans h)
    (fun t h => (hk t).trans h) (fun t h => (hf t).trans h) rfl

end Sys2Proof.Machine
end

