-- ==== Sys2Proof/Laws/Table.lean ====
section
/-! SUPPORT. The tables of the pool and the Run Table: what reading gives after writing and erasing, that both keep the
keys strictly rising, and what rising keys give. -/
namespace Sys2Proof.Machine

/-- The sorting that the lemmas of this file use: keys compared as natural numbers, as entry indices and run numbers
are. -/
structure KeyOrder (κ : Type) [DecidableEq κ] [LT κ] [DecidableLT κ] : Prop where
  irrefl : ∀ a : κ, ¬ a < a
  trans : ∀ a b c : κ, a < b → b < c → a < c
  total : ∀ a b : κ, a < b ∨ a = b ∨ b < a

theorem natOrder : KeyOrder Nat := ⟨Nat.lt_irrefl, fun _ _ _ => Nat.lt_trans, Nat.lt_trichotomy⟩

theorem runOrder : KeyOrder RunNo := ⟨lt_irrefl, fun _ _ _ => lt_trans, lt_trichotomy⟩

section
variable {κ α : Type} [DecidableEq κ] [LT κ] [DecidableLT κ]

/-! ## Sortedness -/

theorem tableSorted_tail {x : κ × α} {t : List (κ × α)} (h : tableSorted (x :: t) = true) : tableSorted t = true := by
  cases t with
  | nil => rfl
  | cons y ys => simp only [tableSorted, Bool.and_eq_true] at h; exact h.2

theorem tableSorted_head_lt (ko : KeyOrder κ) {x : κ × α} {t : List (κ × α)} (h : tableSorted (x :: t) = true) :
    ∀ y ∈ t, x.1 < y.1 := by
  induction t generalizing x with
  | nil => simp
  | cons z zs ih =>
    simp only [tableSorted, Bool.and_eq_true, decide_eq_true_eq] at h
    intro y hy
    rcases List.mem_cons.mp hy with rfl | hy
    · exact h.1
    · exact ko.trans _ _ _ h.1 (ih h.2 y hy)

theorem tableSorted_cons (ko : KeyOrder κ) {x : κ × α} {t : List (κ × α)} :
    tableSorted (x :: t) = true ↔ (∀ y ∈ t, x.1 < y.1) ∧ tableSorted t = true := by
  refine ⟨fun h => ⟨tableSorted_head_lt ko h, tableSorted_tail h⟩, fun ⟨h1, h2⟩ => ?_⟩
  cases t with
  | nil => rfl
  | cons y ys => simp [tableSorted, h1, h2]

/-- A table is sorted exactly when its keys rise strictly. -/
theorem tableSorted_iff (ko : KeyOrder κ) {t : List (κ × α)} :
    tableSorted t = true ↔ (t.map Prod.fst).Pairwise (· < ·) := by
  induction t with
  | nil => simp [tableSorted]
  | cons x xs ih => rw [tableSorted_cons ko, ih]; simp

/-- The keys of a sorted table are distinct. -/
theorem tableSorted_nodup (ko : KeyOrder κ) {t : List (κ × α)} (h : tableSorted t = true) :
    (t.map Prod.fst).Nodup :=
  List.Pairwise.imp (fun {a b} (hlt : a < b) (heq : a = b) => ko.irrefl b (heq ▸ hlt)) ((tableSorted_iff ko).mp h)

/-- Changing the values alone keeps a table sorted. -/
theorem tableSorted_map {β : Type} (ko : KeyOrder κ) (f : κ × α → β) (t : List (κ × α)) :
    tableSorted (t.map fun x => (x.1, f x)) = tableSorted t := by
  rw [Bool.eq_iff_iff, tableSorted_iff ko, tableSorted_iff ko]
  simp [Function.comp_def]

theorem tableSorted_filter (ko : KeyOrder κ) (p : κ × α → Bool) {t : List (κ × α)} (h : tableSorted t = true) :
    tableSorted (t.filter p) = true := by
  rw [tableSorted_iff ko] at h ⊢
  exact h.sublist (List.Sublist.map _ List.filter_sublist)

theorem tableSorted_put (ko : KeyOrder κ) (k : κ) (v : α) {t : List (κ × α)} (h : tableSorted t = true) :
    tableSorted (tablePut k v t) = true := by
  induction t with
  | nil => rfl
  | cons x xs ih =>
    obtain ⟨j, w⟩ := x
    have hx := tableSorted_head_lt ko h
    simp only [tablePut]
    split_ifs with h1 h2
    · exact (tableSorted_cons ko).mpr ⟨fun y hy => by
        rcases List.mem_cons.mp hy with rfl | hy
        · exact h1
        · exact ko.trans _ _ _ h1 (hx y hy), h⟩
    · subst h2
      exact (tableSorted_cons ko).mpr ⟨hx, tableSorted_tail h⟩
    · refine (tableSorted_cons ko).mpr ⟨?_, ih (tableSorted_tail h)⟩
      have hkj : j < k := (ko.total k j).resolve_left h1 |>.resolve_left h2
      have hmem : ∀ (ys : List (κ × α)), (∀ y ∈ ys, j < y.1) → ∀ y ∈ tablePut k v ys, j < y.1 := by
        intro ys
        induction ys with
        | nil => intro _ y hy; simp only [tablePut, List.mem_singleton] at hy; rw [hy]; exact hkj
        | cons z zs ihz =>
          obtain ⟨i, u⟩ := z
          intro hz y hy
          simp only [tablePut] at hy
          split_ifs at hy with h3 h4
          · rcases List.mem_cons.mp hy with rfl | hy
            · exact hkj
            · exact hz y hy
          · rcases List.mem_cons.mp hy with rfl | hy
            · exact hkj
            · exact hz y (List.mem_cons_of_mem _ hy)
          · rcases List.mem_cons.mp hy with rfl | hy
            · exact hz _ List.mem_cons_self
            · exact ihz (fun y hy => hz y (List.mem_cons_of_mem _ hy)) y hy
      exact hmem xs hx

theorem tableSorted_erase (ko : KeyOrder κ) (k : κ) {t : List (κ × α)} (h : tableSorted t = true) :
    tableSorted (tableErase k t) = true := tableSorted_filter ko _ h

/-! ## Reading after writing -/

@[simp] theorem tableGet_put_self (k : κ) (v : α) (t : List (κ × α)) : tableGet k (tablePut k v t) = some v := by
  induction t with
  | nil => simp [tablePut, tableGet]
  | cons x xs ih =>
    obtain ⟨j, w⟩ := x
    simp only [tablePut]
    split_ifs with h1 h2
    · simp [tableGet]
    · simp [tableGet]
    · simp [tableGet, Ne.symm h2, ih]

theorem tableGet_put_ne {k i : κ} (v : α) (t : List (κ × α)) (h : i ≠ k) :
    tableGet i (tablePut k v t) = tableGet i t := by
  induction t with
  | nil => simp [tablePut, tableGet, Ne.symm h]
  | cons x xs ih =>
    obtain ⟨j, w⟩ := x
    simp only [tablePut]
    split_ifs with h1 h2
    · simp [tableGet, Ne.symm h]
    · subst h2; simp [tableGet, Ne.symm h]
    · simp [tableGet, ih]

theorem tableGet_put (k i : κ) (v : α) (t : List (κ × α)) :
    tableGet i (tablePut k v t) = if i = k then some v else tableGet i t := by
  split_ifs with h
  · subst h; exact tableGet_put_self _ _ _
  · exact tableGet_put_ne _ _ h

/-- Writing under a key already written replaces the value. -/
theorem tablePut_put (ko : KeyOrder κ) (k : κ) (v w : α) (t : List (κ × α)) :
    tablePut k w (tablePut k v t) = tablePut k w t := by
  induction t with
  | nil => simp [tablePut, ko.irrefl k]
  | cons x xs ih =>
    obtain ⟨j, u⟩ := x
    simp only [tablePut]
    split_ifs with h1 h2
    · simp [tablePut, ko.irrefl k]
    · simp [tablePut, ko.irrefl k]
    · simp [tablePut, h1, h2, ih]

theorem tableGet_mem {k : κ} {v : α} {t : List (κ × α)} (h : tableGet k t = some v) : (k, v) ∈ t := by
  induction t with
  | nil => cases h
  | cons x xs ih =>
    obtain ⟨j, w⟩ := x
    simp only [tableGet] at h
    split_ifs at h with hj
    · cases h; subst hj; exact List.mem_cons_self
    · exact List.mem_cons_of_mem _ (ih h)

/-- In a sorted table, what is listed is what is read. -/
theorem tableGet_of_mem (ko : KeyOrder κ) {k : κ} {v : α} {t : List (κ × α)} (hs : tableSorted t = true)
    (h : (k, v) ∈ t) : tableGet k t = some v := by
  induction t with
  | nil => cases h
  | cons x xs ih =>
    obtain ⟨j, w⟩ := x
    simp only [tableGet]
    rcases List.mem_cons.mp h with h | h
    · cases h; simp
    · have := tableSorted_head_lt ko hs _ h
      split_ifs with hj
      · subst hj; exact absurd this (ko.irrefl _)
      · exact ih (tableSorted_tail hs) h

theorem tableGet_eq_some_iff (ko : KeyOrder κ) {k : κ} {v : α} {t : List (κ × α)} (hs : tableSorted t = true) :
    tableGet k t = some v ↔ (k, v) ∈ t := ⟨tableGet_mem, tableGet_of_mem ko hs⟩

/-- Reading after every value is changed gives the changed value. -/
theorem tableGet_map {β : Type} (f : κ × α → β) (k : κ) (t : List (κ × α)) :
    tableGet k (t.map fun x => (x.1, f x)) = (tableGet k t).map fun v => f (k, v) := by
  induction t with
  | nil => rfl
  | cons x xs ih =>
    obtain ⟨j, w⟩ := x
    simp only [List.map_cons, tableGet]
    split_ifs with hj
    · subst hj; rfl
    · exact ih

theorem tableGet_erase (k i : κ) (t : List (κ × α)) :
    tableGet i (tableErase k t) = if i = k then none else tableGet i t := by
  induction t with
  | nil => simp [tableErase, tableGet]
  | cons x xs ih =>
    obtain ⟨j, w⟩ := x
    simp only [tableErase, List.filter_cons, decide_not] at ih ⊢
    by_cases hj : j = k
    · subst hj
      simp only [decide_true, Bool.not_true, Bool.false_eq_true, if_false, tableGet, ih]
      split_ifs with h1 h2 <;> simp_all
    · simp only [hj, decide_false, Bool.not_false, if_true, tableGet, ih]
      split_ifs with h1 h2 <;> simp_all

/-! ## Writing what is read, and lengths -/

theorem tablePut_mem {k : κ} {v : α} {t : List (κ × α)} {x : κ × α} (h : x ∈ tablePut k v t) :
    x = (k, v) ∨ x ∈ t := by
  induction t with
  | nil => simpa [tablePut] using h
  | cons y ys ih =>
    obtain ⟨j, w⟩ := y
    simp only [tablePut] at h
    split_ifs at h with h1 h2
    · rcases List.mem_cons.mp h with h | h
      · exact .inl h
      · exact .inr h
    · rcases List.mem_cons.mp h with h | h
      · exact .inl h
      · exact .inr (List.mem_cons_of_mem _ h)
    · rcases List.mem_cons.mp h with h | h
      · exact .inr (h ▸ List.mem_cons_self)
      · exact (ih h).imp id (List.mem_cons_of_mem _)

/-- Writing under a key that a sorted table lists replaces its value in place. -/
theorem tablePut_listed (ko : KeyOrder κ) {k : κ} {v w : α} {t : List (κ × α)} (hs : tableSorted t = true)
    (h : tableGet k t = some w) : tablePut k v t = t.map fun x => (x.1, if x.1 = k then v else x.2) := by
  induction t with
  | nil => cases h
  | cons x xs ih =>
    obtain ⟨j, u⟩ := x
    simp only [tableGet] at h
    simp only [tablePut, List.map_cons]
    have hx := tableSorted_head_lt ko hs
    split_ifs at h with hj
    · subst hj
      have hne : ∀ y ∈ xs, y.1 ≠ j := fun y hy he => ko.irrefl j (he ▸ hx y hy)
      simp only [ko.irrefl, if_false, if_true, List.cons.injEq, true_and]
      symm
      rw [List.map_congr_left (g := id) fun y hy => by simp [hne y hy]]
      simp
    · have hlt : j < k := by
        have := hx _ (tableGet_mem h)
        exact this
      have h1 : ¬ k < j := fun h => ko.irrefl _ (ko.trans _ _ _ h hlt)
      simp [h1, Ne.symm hj, hj, ih (tableSorted_tail hs) h]

theorem tablePut_length_listed (ko : KeyOrder κ) {k : κ} {v w : α} {t : List (κ × α)} (hs : tableSorted t = true)
    (h : tableGet k t = some w) : (tablePut k v t).length = t.length := by
  simp [tablePut_listed ko hs h]

/-- Writing under a key that is not listed adds one place. -/
theorem tablePut_length_new {k : κ} {v : α} {t : List (κ × α)} (h : tableGet k t = none) :
    (tablePut k v t).length = t.length + 1 := by
  induction t with
  | nil => rfl
  | cons x xs ih =>
    obtain ⟨j, w⟩ := x
    simp only [tableGet] at h
    split_ifs at h with hj
    simp only [tablePut]
    split_ifs with h1 h2
    · rfl
    · exact absurd h2.symm hj
    · simp [ih h]

theorem tablePut_length_le {k : κ} {v : α} (t : List (κ × α)) : (tablePut k v t).length ≤ t.length + 1 := by
  induction t with
  | nil => simp [tablePut]
  | cons x xs ih =>
    obtain ⟨j, w⟩ := x
    simp only [tablePut]
    split_ifs <;> (simp; try omega)

/-- Writing under a key that is not listed counts the new value and the old ones. -/
theorem tablePut_countP_new {k : κ} {v : α} {t : List (κ × α)} (p : κ × α → Bool) (h : tableGet k t = none) :
    (tablePut k v t).countP p = t.countP p + if p (k, v) then 1 else 0 := by
  induction t with
  | nil => simp [tablePut, List.countP_cons]
  | cons x xs ih =>
    obtain ⟨j, w⟩ := x
    simp only [tableGet] at h
    split_ifs at h with hj
    simp only [tablePut]
    by_cases h1 : k < j
    · simp [h1, List.countP_cons]
    · simp only [h1, if_false, show ¬ k = j from fun h => hj h.symm, List.countP_cons, ih h]
      omega

end

/-! ## The lowest free index -/

theorem lowestFree_ge {α : Type} (n : Nat) (t : List (Nat × α)) : n ≤ lowestFree n t := by
  induction t generalizing n with
  | nil => exact le_refl n
  | cons x xs ih =>
    simp only [lowestFree]
    split_ifs
    · exact (Nat.le_succ n).trans (ih _)
    · exact le_refl n

/-- The lowest free index is free, in a table whose indices rise from at least the start. -/
theorem lowestFree_free {α : Type} (n : Nat) {t : List (Nat × α)} (hs : tableSorted t = true)
    (hn : ∀ x ∈ t, n ≤ x.1) : tableGet (lowestFree n t) t = none := by
  induction t generalizing n with
  | nil => rfl
  | cons x xs ih =>
    obtain ⟨j, v⟩ := x
    have hx := tableSorted_head_lt natOrder hs
    simp only [lowestFree]
    split_ifs with hj
    · subst hj
      have hge := lowestFree_ge (j + 1) xs
      simp only [tableGet, show j ≠ lowestFree (j + 1) xs by omega, if_false]
      exact ih (j + 1) (tableSorted_tail hs) fun y hy => hx y hy
    · have h0 := hn (j, v) List.mem_cons_self
      simp only [tableGet, hj, if_false]
      by_contra hc
      obtain ⟨w, hw⟩ := Option.ne_none_iff_exists'.mp hc
      have := hx _ (tableGet_mem hw)
      simp only at this h0
      omega

/-- Every index below the lowest free one is listed. -/
theorem lowestFree_below {α : Type} (n : Nat) (t : List (Nat × α)) {i : Nat} (h1 : n ≤ i) (h2 : i < lowestFree n t) :
    (tableGet i t).isSome = true := by
  induction t generalizing n with
  | nil => simp only [lowestFree] at h2; omega
  | cons x xs ih =>
    obtain ⟨j, v⟩ := x
    simp only [lowestFree] at h2
    split_ifs at h2 with hj
    · subst hj
      simp only [tableGet]
      split_ifs with hi
      · rfl
      · exact ih (j + 1) (by omega) h2
    · omega

end Sys2Proof.Machine
end

