-- ==== Sys2Proof/Laws/Exec.lean ====
section
/-! SUPPORT. A request that is taken, as one equation; and the reading of the state a request finds on arrival. -/
namespace Sys2Proof.Machine

/-- A request whose meaning serves it by `serve` is, when its port can take it at once and role and mode take it, that
serving on the part with the frame in the buffer, and its answer. -/
theorem exec_taken {c : Instr} {p : Port} {k : RequestKind} {payload : List Byte} {s : State} {serve : State → Served}
    (he : exec c s = .next (request c serve s)) (hc : c.request = some (p, k, payload)) (hw : c.wellFormed = true)
    (hs : s.Ready p) (hr : k.inRole p.role = true) (hm : k.modeTest s.mode = none) :
    exec c s = .next ((serve (s.arrived c)).state.responded c (serve (s.arrived c)).condition
      (serve (s.arrived c)).data) := by
  rw [he, request_taken serve hc hw hs hr hm]

/-- The same, with the serving already computed. -/
theorem exec_served {c : Instr} {p : Port} {k : RequestKind} {payload : List Byte} {s t : State}
    {serve : State → Served} {x : Condition} {d : Data} (he : exec c s = .next (request c serve s))
    (hc : c.request = some (p, k, payload)) (hw : c.wellFormed = true) (hs : s.Ready p)
    (hr : k.inRole p.role = true) (hm : k.modeTest s.mode = none)
    (hv : serve (s.arrived c) = { condition := x, data := d, state := t }) :
    exec c s = .next (t.responded c x d) := by
  rw [exec_taken he hc hw hs hr hm, hv]

/-! ## What a request reads on its arrival -/

@[simp] theorem State.arrived_wand (s : State) (c : Instr) (w : WandPort) : (s.arrived c).wand w = s.wand w := by
  simp [State.wand]
@[simp] theorem State.arrived_run (s : State) (c : Instr) (r : RunNo) : (s.arrived c).run r = s.run r := by
  simp [State.run]
@[simp] theorem State.arrived_runState (s : State) (c : Instr) (r : RunNo) :
    (s.arrived c).runState r = s.runState r := by simp [State.runState]
@[simp] theorem State.arrived_claim (s : State) (c : Instr) (r : RunNo) : (s.arrived c).claim? r = s.claim? r := by
  simp [State.claim?]
@[simp] theorem State.arrived_entry (s : State) (c : Instr) (i : Nat) : (s.arrived c).entry i = s.entry i := by
  simp [State.entry]
@[simp] theorem State.arrived_lookup (s : State) (c : Instr) (tag : Tag) : (s.arrived c).lookup tag = s.lookup tag := by
  simp [State.lookup]
@[simp] theorem State.arrived_strayOf (s : State) (c : Instr) (tag : Tag) :
    (s.arrived c).strayOf tag = s.strayOf tag := by simp [State.strayOf]
@[simp] theorem State.arrived_pendingRun (s : State) (c : Instr) (i : Nat) :
    (s.arrived c).pendingRun i = s.pendingRun i := by simp [State.pendingRun]
@[simp] theorem State.arrived_itemCount (s : State) (c : Instr) (r : RunNo) :
    (s.arrived c).itemCount r = s.itemCount r := by simp [State.itemCount]
@[simp] theorem State.arrived_tallies (s : State) (c : Instr) (r : RunNo) : (s.arrived c).tallies r = s.tallies r := by
  simp [State.tallies]

end Sys2Proof.Machine
end

