-- ==== Sys2Proof/Laws/Operands.lean ====
section
/-! SUPPORT. What the operand forms give inside and outside their ranges, and what the readings of the tables give. -/
namespace Sys2Proof.Machine

/-! ## Operands -/

theorem runOperand_some {run : U16} {r : RunNo} (h : run.toNat = r.val) : runOperand run = some r := by
  have := r.isLt
  unfold runOperand
  rw [dif_pos (by omega)]
  simp [h]

theorem runOperand_none {run : U16} (h : 280 ≤ run.toNat) : runOperand run = none := by
  unfold runOperand
  rw [dif_neg (by omega)]

theorem bayOperand_some {x : Byte} {b : Bay} (h : x.toNat = b.val) : bayOperand x = some b := by
  have := b.isLt
  unfold bayOperand
  rw [dif_pos (by omega)]
  simp [h]

theorem bayOperand_none {x : Byte} (h : 40 ≤ x.toNat) : bayOperand x = none := by
  unfold bayOperand
  rw [dif_neg (by omega)]

theorem wandOperand_port (w : WandPort) : wandOperand w.port.number = some w := by cases w <;> rfl

theorem wandOperand_none {x : Byte} (h : 4 ≤ x.toNat) : wandOperand x = none := by
  unfold wandOperand
  split <;> first | omega | rfl

theorem directionOperand_code (d : Direction) : directionOperand (directionCode d) = some d := by cases d <;> rfl

theorem directionOperand_none {x : Byte} (h : 2 ≤ x.toNat) : directionOperand x = none := by
  unfold directionOperand
  split <;> first | omega | rfl

theorem directionOperand_some {x : Byte} (h : x.toNat < 2) : ∃ d, directionOperand x = some d := by
  have h' : x.toNat = 0 ∨ x.toNat = 1 := by omega
  unfold directionOperand
  rcases h' with h' | h' <;> simp [h']

theorem initialStatusOperand_some {x : Byte} (h : x.toNat = 0 ∨ x.toNat = 3) :
    ∃ st, initialStatusOperand x = some st := by
  unfold initialStatusOperand
  rcases h with h | h <;> simp [h]

theorem initialStatusOperand_none {x : Byte} (h0 : x.toNat ≠ 0) (h3 : x.toNat ≠ 3) :
    initialStatusOperand x = none := by
  unfold initialStatusOperand
  split <;> simp_all

theorem indexOperand_number {i : ShelfIndex} {x : Byte} (h : i.number = x.toNat) :
    indexOperand x = some (.shelf i) := by
  obtain ⟨side, j⟩ := i
  have := j.isLt
  cases side <;> simp only [ShelfIndex.number] at h <;> unfold indexOperand
  · rw [dif_pos (by omega)]
    simp [← h]
  · rw [dif_neg (by omega), if_neg (by omega), dif_pos (by omega)]
    simp [← h]

theorem shelfOperand_number {i : ShelfIndex} {x : Byte} (h : i.number = x.toNat) : shelfOperand x = some i := by
  simp [shelfOperand, indexOperand_number h]

theorem indexOperand_none {x : Byte} (h : 16 ≤ x.toNat) : indexOperand x = none := by
  unfold indexOperand
  rw [dif_neg (by omega), if_neg (by omega), dif_neg (by omega), if_neg (by omega)]

theorem shelfOperand_none {x : Byte} (h : x.toNat = 7 ∨ 15 ≤ x.toNat) : shelfOperand x = none := by
  unfold shelfOperand indexOperand
  rcases h with h | h
  · rw [dif_neg (by omega), if_pos h]
  · rw [dif_neg (by omega), if_neg (by omega), dif_neg (by omega)]
    split_ifs <;> rfl

/-! ## Run states -/

theorem State.runState_some {s : State} {r : RunNo} {x : LoadedRun} (h : s.run r = some x) :
    s.runState r = x.stage.state := by simp [State.runState, h]

theorem State.runState_none {s : State} {r : RunNo} (h : s.run r = none) : s.runState r = .unloaded := by
  simp [State.runState, h]

theorem State.runState_unloaded {s : State} {r : RunNo} : s.runState r = .unloaded ↔ s.run r = none := by
  unfold State.runState
  cases s.run r with
  | none => simp
  | some x => cases h : x.stage <;> simp [Stage.state, h]

theorem Stage.state_loading {g : Stage} : g.state = .loading ↔ g = .loading := by cases g <;> simp [Stage.state]
theorem Stage.state_ready {g : Stage} : g.state = .ready ↔ g = .ready := by cases g <;> simp [Stage.state]
theorem Stage.state_claimed {g : Stage} : g.state = .claimed ↔ ∃ c, g = .claimed c := by
  cases g <;> simp [Stage.state]
theorem Stage.state_held {g : Stage} : g.state = .held ↔ ∃ c, g = .held c := by cases g <;> simp [Stage.state]
theorem Stage.state_checked {g : Stage} : g.state = .checked ↔ g = .checked := by cases g <;> simp [Stage.state]
theorem Stage.state_rescan {g : Stage} : g.state = .rescan ↔ g = .rescan := by cases g <;> simp [Stage.state]
theorem Stage.state_review {g : Stage} : g.state = .review ↔ g = .review := by cases g <;> simp [Stage.state]

/-- A stage with a claim is that of a CLAIMED or a HELD run. -/
theorem Stage.claim_some {g : Stage} {c : Claim} : g.claim? = some c ↔ g = .claimed c ∨ g = .held c := by
  cases g <;> simp [Stage.claim?]

theorem Stage.mapClaim_state (f : Claim → Claim) (g : Stage) : (g.mapClaim f).state = g.state := by cases g <;> rfl

theorem Stage.mapClaim_claim (f : Claim → Claim) (g : Stage) : (g.mapClaim f).claim? = g.claim?.map f := by
  cases g <;> rfl

/-! ## Changes of one run and of one entry -/

theorem State.updateRun_some {s : State} {r : RunNo} {x : LoadedRun} (h : s.run r = some x)
    (f : LoadedRun → LoadedRun) : s.updateRun r f = s.setRun r (f x) := by simp [State.updateRun, h]

theorem State.updateRun_none {s : State} {r : RunNo} (h : s.run r = none) (f : LoadedRun → LoadedRun) :
    s.updateRun r f = s := by simp [State.updateRun, h]

theorem State.run_setRun (s : State) (r q : RunNo) (x : LoadedRun) :
    (s.setRun r x).run q = if q = r then some x else s.run q := by
  simp [State.run, State.setRun, tableGet_put]

theorem State.run_updateRun (s : State) (r q : RunNo) (f : LoadedRun → LoadedRun) :
    (s.updateRun r f).run q = if q = r then (s.run r).map f else s.run q := by
  unfold State.updateRun
  split
  · next x h => simp [State.run_setRun, h]
  · next h =>
    split_ifs with hq
    · subst hq
      simp [h]
    · rfl

theorem State.setRun_setRun (s : State) (r : RunNo) (x y : LoadedRun) : (s.setRun r x).setRun r y = s.setRun r y := by
  simp [State.setRun, tablePut_put runOrder]

theorem State.claim_some {s : State} {r : RunNo} {c : Claim} :
    s.claim? r = some c ↔ ∃ x, s.run r = some x ∧ (x.stage = .claimed c ∨ x.stage = .held c) := by
  simp [State.claim?, Option.bind_eq_some_iff, Stage.claim_some]

theorem State.claim_updateClaim (s : State) (r q : RunNo) (f : Claim → Claim) :
    (s.updateClaim r f).claim? q = if q = r then (s.claim? r).map f else s.claim? q := by
  unfold State.updateClaim State.claim?
  rw [State.run_updateRun]
  split_ifs
  · cases s.run r <;> simp [Stage.mapClaim_claim]
  · rfl

theorem State.updateEntry_some {s : State} {i : Nat} {e : Entry} (h : s.entry i = some e) (f : Entry → Entry) :
    s.updateEntry i f = { s with pool := tablePut i (f e) s.pool } := by simp [State.updateEntry, h]

theorem State.updateEntry_none {s : State} {i : Nat} (h : s.entry i = none) (f : Entry → Entry) :
    s.updateEntry i f = s := by simp [State.updateEntry, h]

theorem State.entry_updateEntry (s : State) (i j : Nat) (f : Entry → Entry) :
    (s.updateEntry i f).entry j = if j = i then (s.entry i).map f else s.entry j := by
  unfold State.updateEntry
  split
  · next e h =>
    simp only [State.entry, tableGet_put]
    simp only [State.entry] at h
    simp [h]
  · next h =>
    split_ifs with hj
    · subst hj
      simp [h]
    · rfl

/-- Two changes of one entry are one. -/
theorem State.updateEntry_updateEntry (s : State) (i : Nat) (f g : Entry → Entry) :
    (s.updateEntry i f).updateEntry i g = s.updateEntry i fun e => g (f e) := by
  cases h : s.entry i with
  | none => simp [State.updateEntry_none h]
  | some e =>
    rw [State.updateEntry_some h, State.updateEntry_some h, State.updateEntry_some (e := f e) (by simp [State.entry])]
    simp [tablePut_put natOrder]

/-! ## The lookup by tag -/

theorem State.lookup_none {s : State} {tag : Tag} : s.lookup tag = none ↔ ∀ y ∈ s.pool, y.2.tag ≠ tag := by
  simp [State.lookup, List.find?_eq_none]

theorem State.lookup_tag {s : State} {tag : Tag} {i : Nat} {e : Entry} (h : s.lookup tag = some (i, e)) :
    e.tag = tag := by
  have := List.find?_some h
  simpa using this

theorem State.lookup_entry {s : State} (hs : tableSorted s.pool = true) {tag : Tag} {i : Nat} {e : Entry}
    (h : s.lookup tag = some (i, e)) : s.entry i = some e :=
  tableGet_of_mem natOrder hs (List.mem_of_find?_eq_some h)

end Sys2Proof.Machine
end

