-- ==== Sys2Proof/Laws/Queues.lean ====
section
/-! SUPPORT. What an offer to the Discrepancy Queue, a prompt raised on a port and OP_DONE raised at a completion come to, case
by case. -/
namespace Sys2Proof.Machine

theorem State.offer_room {s : State} (d : Discrepancy) (h : s.discrepancies.length < 255) :
    s.offer d = { s with discrepancies := s.discrepancies ++ [d] } := by
  unfold State.offer
  rw [if_pos (by simp only [Config.queueCapacity]; omega)]

theorem State.offer_fills {s : State} (d : Discrepancy) (h : s.discrepancies.length = 255) :
    s.offer d = ({ s with discrepancies := s.discrepancies ++ [d] } : State).notify .lp5 .queueFull := by
  unfold State.offer
  rw [if_neg (by simp only [Config.queueCapacity]; omega), if_pos (by simp only [Config.queueCapacity]; omega)]

theorem State.offer_full {s : State} (d : Discrepancy) (h : 256 ≤ s.discrepancies.length) :
    s.offer d = { s with overflow := saturatingSucc Config.counterMax s.overflow } := by
  unfold State.offer
  rw [if_neg (by simp only [Config.queueCapacity]; omega), if_neg (by simp only [Config.queueCapacity]; omega)]

/-- An offer reads the queue, the overflow count and the held notices of LP5 alone, so a change of the pool that keeps
these may be made before it or after it. -/
theorem State.offer_withPool (s : State) (d : Discrepancy) (pool : List (Nat × Entry)) :
    ({ s with pool := pool } : State).offer d = { s.offer d with pool := pool } := by
  unfold State.offer
  split_ifs <;> rfl

theorem State.offer_withRuns (s : State) (d : Discrepancy) (runs : List (RunNo × LoadedRun)) :
    ({ s with runs := runs } : State).offer d = { s.offer d with runs := runs } := by
  unfold State.offer
  split_ifs <;> rfl

theorem LinkPort.raisePrompt_dropped {q : LinkPort} {n : Prompt}
    (h : q.mask.getLsbD n.kind.bit = true ∨ 4 ≤ q.prompts.length) : q.raisePrompt n = q := by
  have hp : Config.promptCapacity = 4 := rfl
  unfold LinkPort.raisePrompt masks
  rcases h with h | h
  · rw [if_pos h]
  · split_ifs
    · rfl
    · omega
    · rfl

theorem LinkPort.raisePrompt_queued {q : LinkPort} {n : Prompt} (h : q.mask.getLsbD n.kind.bit = false)
    (hq : q.prompts.length < 4) : q.raisePrompt n = { q with prompts := q.prompts ++ [n] } := by
  have hp : Config.promptCapacity = 4 := rfl
  unfold LinkPort.raisePrompt masks
  rw [if_neg (by simp [h]), if_pos (by omega)]

theorem State.raiseOpDone_raised {s : State} (op : Operation) (h : s.resetScheduled = false) :
    s.raiseOpDone op = s.notify .lp5 (.opDone op) := by
  simp [State.raiseOpDone, h]

/-- Once a DEVICE_RESET was taken, OP_DONE is not raised (R158, R159). -/
theorem State.raiseOpDone_withheld {s : State} (op : Operation) (h : s.resetScheduled = true) : s.raiseOpDone op = s := by
  simp [State.raiseOpDone, h]

end Sys2Proof.Machine
end

