-- ==== Sys2Proof/Laws/Register.lean ====
section
/-! SUPPORT. The Item Register and the Run Table in canonical form: writing what is already there changes nothing, changes
of one record join, and withdrawal is one change of one pass record. -/
namespace Sys2Proof.Machine

theorem State.updateRun_updateRun (s : State) (r : RunNo) (f g : LoadedRun → LoadedRun) :
    (s.updateRun r f).updateRun r g = s.updateRun r fun x => g (f x) := by
  cases h : s.run r with
  | none => rw [State.updateRun_none h, State.updateRun_none h, State.updateRun_none h]
  | some x =>
    rw [State.updateRun_some h, State.updateRun_some (x := f x) (by rw [State.run_setRun, if_pos rfl]),
      State.setRun_setRun, State.updateRun_some h]

theorem Stage.mapClaim_mapClaim (f g : Claim → Claim) (x : Stage) :
    (x.mapClaim f).mapClaim g = x.mapClaim fun c => g (f c) := by cases x <;> rfl

theorem State.updateClaim_updateClaim (s : State) (r : RunNo) (f g : Claim → Claim) :
    (s.updateClaim r f).updateClaim r g = s.updateClaim r fun c => g (f c) := by
  simp only [State.updateClaim, State.updateRun_updateRun, Stage.mapClaim_mapClaim]

theorem State.updatePass_updatePass (s : State) (r : RunNo) (f g : PassRecord → PassRecord) :
    (s.updatePass r f).updatePass r g = s.updatePass r fun p => g (f p) := by
  simp only [State.updatePass, State.updateClaim_updateClaim]

/-- Writing the value a sorted table lists leaves it as it is. -/
theorem tablePut_self {κ α : Type} [DecidableEq κ] [LT κ] [DecidableLT κ] (ko : KeyOrder κ) {k : κ} {v : α}
    {t : List (κ × α)} (hs : tableSorted t = true) (h : tableGet k t = some v) : tablePut k v t = t := by
  rw [tablePut_listed ko hs (w := v) h]
  conv_rhs => rw [← List.map_id t]
  refine List.map_congr_left ?_
  rintro ⟨q, z⟩ hq
  simp only [id]
  split_ifs with hqk
  · have hqk' : q = k := hqk
    subst hqk'
    have := tableGet_of_mem ko hs hq
    rw [h] at this
    cases this
    rfl
  · rfl

theorem State.setRun_self {s : State} (hs : tableSorted s.runs = true) {r : RunNo} {x : LoadedRun}
    (h : s.run r = some x) : s.setRun r x = s := by
  simp only [State.setRun, tablePut_self runOrder hs h]

theorem State.updateRun_self {s : State} (hs : tableSorted s.runs = true) {r : RunNo} {f : LoadedRun → LoadedRun}
    (h : ∀ x, s.run r = some x → f x = x) : s.updateRun r f = s := by
  cases hx : s.run r with
  | none => exact State.updateRun_none hx f
  | some x => rw [State.updateRun_some hx, h x hx, State.setRun_self hs hx]

theorem Stage.mapClaim_same {f : Claim → Claim} {g : Stage} (h : ∀ c, g.claim? = some c → f c = c) :
    g.mapClaim f = g := by
  cases g <;> simp_all [Stage.claim?, Stage.mapClaim]

/-- A pass record that a change leaves as it is. -/
theorem State.updatePass_same {s : State} (hs : tableSorted s.runs = true) {r : RunNo} {f : PassRecord → PassRecord}
    (h : ∀ c, s.claim? r = some c → f c.pass = c.pass) : s.updatePass r f = s := by
  refine State.updateRun_self hs fun x hx => ?_
  rw [Stage.mapClaim_same]
  intro c hc
  rw [h c (by simp [State.claim?, hx, hc])]

/-- A run with no claim has no pass record to change. -/
theorem State.updatePass_unclaimed {s : State} (hs : tableSorted s.runs = true) {r : RunNo} (h : s.claim? r = none)
    (f : PassRecord → PassRecord) : s.updatePass r f = s :=
  State.updatePass_same hs fun c hc => by simp [h] at hc

/-- Withdrawal clears the pending slot of the entry's home run where the entry stands in it (R52). -/
theorem State.withdraw_eq {s : State} (hs : tableSorted s.runs = true) {i : Nat} {e : Entry}
    (he : s.entry i = some e) :
    s.withdraw i = s.updatePass e.homeRun fun p =>
      if p.pendingEntry = some i then { p with pendingEntry := none } else p := by
  unfold State.withdraw State.pendingRun
  simp only [he]
  cases hc : s.claim? e.homeRun with
  | none => exact (State.updatePass_unclaimed hs hc _).symm
  | some c =>
    simp only
    by_cases hp : c.pass.pendingEntry = some i
    · obtain ⟨x, hx, hst⟩ := State.claim_some.mp hc
      rw [if_pos hp]
      simp only [State.updatePass, State.updateClaim, State.updateRun_some hx]
      congr 2
      rcases hst with hst | hst <;> simp [hst, Stage.mapClaim, hp]
    · rw [if_neg hp]
      refine (State.updatePass_same hs fun d hd => ?_).symm
      rw [hc] at hd
      cases hd
      rw [if_neg hp]

/-- Where an entry stands pending: in its home run's slot or nowhere (R37). -/
theorem State.pendingRun_eq {s : State} {i : Nat} {e : Entry} (he : s.entry i = some e) :
    s.pendingRun i =
      (s.claim? e.homeRun).bind fun k => if k.pass.pendingEntry = some i then some e.homeRun else none := by
  unfold State.pendingRun
  simp only [he]
  cases s.claim? e.homeRun <;> rfl

/-! ## Status changes (R33, R34) -/

theorem State.setStatus_same {s : State} {i : Nat} {e : Entry} (he : s.entry i = some e) {st : Status}
    (h : e.status = st) : s.setStatus i st = s := by simp [State.setStatus, he, h]

theorem State.setStatus_move {s : State} {i : Nat} {e : Entry} (he : s.entry i = some e) {st : Status}
    (h : e.status ≠ st) :
    s.setStatus i st = ({ s with pool := tablePut i { e with status := st } s.pool } : State).updateRun e.homeRun fun x =>
      { x with shelf := { x.shelf with tallies := x.shelf.tallies.move e.status st } } := by
  simp only [State.setStatus, he]
  rw [if_neg h, State.updateEntry_some he]

end Sys2Proof.Machine
end

