-- ==== Sys2Proof/Tests/Slice0.lean ====
section
/-! SUPPORT. Tests of the model against the manual: ill-formed commands, the manual's worked examples and tables, at most
two tests for each command, and, for each statement with hypotheses, a state and operands that meet them. A docstring
names where an expected result comes from. -/
namespace Sys2Proof.Tests
open Sys2Proof.Machine

set_option Elab.async false

/-! ## Helpers -/

/-- The state that a command leaves. -/
def after (c : Instr) (s : State) : State :=
  match exec c s with
  | .next t => t
  | .fault _ => s
  | .refused _ => s

/-- The response to a request. -/
def answer (c : Instr) (s : State) : Option Response :=
  match c.request with
  | some (p, _, _) => ((after c s).port p).lastResponse
  | none => none

/-- The condition that answers a request. -/
def condition (c : Instr) (s : State) : Option Condition := (answer c s).map (·.condition)

/-- The data that answer a request. -/
def data (c : Instr) (s : State) : Option Data := (answer c s).map (·.data)

/-- The part in a mode, receiving, with nothing in it. -/
def idle (m : Mode) : State := { State.reset with receiving := true, mode := m, operation := m.operation }

/-- Digit positions from a list, 0 beyond it. -/
def digits (l : List Nat) : Digits :=
  let d (k : Nat) : BitVec 4 := BitVec.ofNat 4 (l.getD k 0)
  ⟨d 0, d 1, d 2, d 3, d 4, d 5⟩

/-- A cutter as a frame carries it: its letter's code and its digits. -/
def cutter (letter : Byte) (l : List Nat) : CarriedCutter := ⟨letter, BitVec.ofNat 8 l.length, digits l⟩

/-- A key of the class QA as a frame carries it. -/
def qa (n : U16) (fraction : List Nat) (c : CarriedCutter := cutter 0 []) (year volume : U16 := 0) : CarriedKey :=
  { letter1 := 81, letter2 := 65, letter3 := 0, classInteger := n, fractionCount := BitVec.ofNat 8 fraction.length,
    fraction := digits fraction, cutter1 := c, cutter2 := cutter 0 [], year := year, volume := volume, spare := 0 }

/-- A held key of the class QA. -/
def held (n : Nat) (fraction : List Nat) (c : Option Cutter := none) (year volume : Option Nat := none) : ShelfKey :=
  { letters := [81, 65], classInteger := n, fraction := fraction, cutter1 := c, cutter2 := none, year := year,
    volume := volume }

/-- An entry never read. -/
def entry (tag : Tag) (key : ShelfKey) (r : RunNo) (st : Status := .expected) : Entry :=
  { tag := tag, key := key, homeRun := r, status := st, judgement := none, flags := .clear, lastSighting := none }

/-- A run of length 900 that holds all keys. -/
def loaded (stage : Stage) (entries : List Nat) : LoadedRun :=
  { lower := held 0 [], upper := held 9999 [], length := 900, passCount := 1, lastPass := .noPass, stage := stage
    shelf := { entries := entries, tallies := { Tallies.zero with expected := entries.length } } }

/-- A pass as its claim begins it. -/
def claim (w : WandPort) (serial : U32) (d : Direction := .forward) : Claim :=
  { claimant := w, timer := 120, pass := PassRecord.begin serial d }

/-- A context of bays 8 and 9. -/
def context (r : Option RunNo) (d : Direction := .forward) : Context :=
  { bayA := 8, bayB := 9, direction := d, cursor := none, claimedRun := r }

/-- The seven entries of run 57 (2.10.1, 5.7.1), indices 37 to 43. -/
def pool57 : List (Nat × Entry) :=
  [(37, entry 0x04A177300C5E9B12 (held 76 [5] (some ⟨65, [1, 2]⟩) (some 2003)) 57),
    (38, entry 0x04A177300C5E9C40 (held 76 [5, 8] (some ⟨66, [4]⟩)) 57),
    (39, entry 0x04A177311D020A7E (held 76 [6] (some ⟨67, [3, 5]⟩)) 57),
    (40, entry 0x04A177311D020B19 (held 76 [6] (some ⟨67, [4]⟩) (some 1998) (some 2)) 57),
    (41, entry 0x04A1773522601140 (held 76 [7, 3] (some ⟨74, [3, 8]⟩)) 57),
    (42, entry 0x04A17735226012A2 (held 76 [9] (some ⟨68, [2, 5]⟩)) 57),
    (43, entry 0x04A17735226012A9 (held 76 [9] (some ⟨68, [3]⟩)) 57)]

/-- Run 57 in COUNTING, in a stage, with its seven entries; bays 8 and 9 under the window of LP1, whose context names a
claimed run or none. -/
def stock (stage : Stage) (r : Option RunNo := none) : State :=
  { idle .counting with
    pool := pool57
    runs := [(57, loaded stage [37, 38, 39, 40, 41, 42, 43])]
    passSerial := 31
    wands := (idle .counting).wands.set { current := context r, stack := [], slot := none } .lp1 }

/-- Run 57 claimed by LP1 in the pass with serial 31. -/
def counting : State := stock (.claimed (claim .lp1 31)) (some 57)

/-- Run 57 held by LP1, behind a context with no claim. -/
def diverted : State :=
  { stock (.held (claim .lp1 31)) with
    wands := (idle .counting).wands.set
      { current := context none, stack := [context (some 57)], slot := none } .lp1 }

/-- The same part with the claim's pass changed. -/
def midPass (f : PassRecord → PassRecord) : State :=
  stock (.claimed { claim .lp1 31 with pass := f (PassRecord.begin 31 .forward) }) (some 57)

/-- The last sighting of an entry read at a position in the pass with a serial. -/
def readAt (position : Nat) (serial : U32 := 31) : LastSighting :=
  { run := 57, position := position, port := .lp1, serial := serial, time := 0 }

/-- A stray record read once. -/
def stray (tag : Tag) (position : Nat) (serial : U32) : Stray :=
  { tag := tag, firstRun := 57, firstPosition := position, firstPort := .lp1, lastRun := 57, lastPosition := position,
    lastPort := .lp1, lastSerial := serial, lastTime := 0, count := 1 }

/-- A record of a full queue. -/
def someRecord : Discrepancy := { kind := .gap, time := 0 }

/-- A frame that a port handles next. -/
def unhandled (f : Frame) : Slot := { frame := f, buffered := true, phase := .unhandled }

/-- The idle part with one port changed. -/
def withPort (p : Port) (f : LinkPort → LinkPort) (m : Mode := .halted) : State := (idle m).updatePort p f

/-! ## Ill-formed commands are refused -/

theorem test_sight_of_none_is_ill_formed : (Instr.sight .lp0 []).wellFormed = false := by decide
theorem test_sight_of_nine_is_ill_formed :
    (Instr.sight .lp0 (List.replicate 9 ⟨1, 0⟩)).wellFormed = false := by decide
theorem test_sight_of_eight_is_well_formed :
    (Instr.sight .lp0 (List.replicate 8 ⟨1, 0⟩)).wellFormed = true := by decide
theorem test_frame_without_start_is_ill_formed :
    (Instr.frameReceived .lp0 [0, 1, 8, 0, 0]).wellFormed = false := by decide
theorem test_frame_of_no_length_is_ill_formed : (Instr.frameReceived .lp0 [0xA5, 0, 0, 0]).wellFormed = false := by decide
theorem test_frame_too_short_is_ill_formed : (Instr.frameReceived .lp0 [0xA5, 2, 8, 0, 0]).wellFormed = false := by decide
theorem test_valid_length_is_ill_formed_as_invalid : (Instr.frameLengthInvalid .lp0 250).wellFormed = false := by decide
theorem test_invalid_length_is_well_formed : (Instr.frameLengthInvalid .lp0 251).wellFormed = true := by decide

/-- The ill-formed SIGHT is answered LENGTH (5.1). -/
theorem test_empty_sight_is_answered_length : condition (.sight .lp1 []) counting = some .length := by decide +kernel

/-! ## The wire (11.2, 11.4) -/

/-- 11.2: the CRC over the bytes 0x31 to 0x39 is 0x29B1. -/
theorem test_crc : crc [0x31, 0x32, 0x33, 0x34, 0x35, 0x36, 0x37, 0x38, 0x39] = 0x29B1#16 := by decide +kernel

/-- 11.2: the bytes of the tag 04A1 7730 0C5E 9B12. -/
theorem test_tag_bytes : tagBytes 0x04A177300C5E9B12 = [0x04, 0xA1, 0x77, 0x30, 0x0C, 0x5E, 0x9B, 0x12] := by decide

/-- 11.2.1: "QA 76.73 .J38" in 24 bytes. -/
theorem test_key_bytes : keyBytes (qa 76 [7, 3] (cutter 74 [3, 8])) =
    [0x51, 0x41, 0, 0, 76, 2, 0x73, 0, 0, 0x4A, 2, 0x38, 0, 0, 0, 0, 0, 0, 0, 0, 0, 0, 0, 0] := by decide

/-- 11.4: a CONFIGURE payload read with its high bytes first. -/
theorem test_decode_configure : decodeFrame .lp5 0x01 [0, 40, 1, 144, 0, 60, 2, 88, 0, 3] =
    some (.configure .lp5 40 400 60 600 3) := by decide

/-- 11.4: the response to a request is a frame of kind 0x7F with the kind echoed. -/
theorem test_response_frame : (Response.frame ⟨0x02, .mode, .empty⟩).payload = [0x02, 0x05] := by decide

/-! ## Collation (1.2.1, 1.3, 1.5.1) -/

theorem test_fraction_decides :
    compareKeys (held 76 [9] (some ⟨68, [3]⟩)) (held 76 [7, 3] (some ⟨74, [3, 8]⟩)) = .gt := by decide
theorem test_cutter_digits_are_a_fraction :
    compareKeys (held 76 [9] (some ⟨68, [2, 5]⟩)) (held 76 [9] (some ⟨68, [3]⟩)) = .lt := by decide
theorem test_absent_cutter_is_lower :
    compareKeys (held 76 [5]) (held 76 [5] (some ⟨65, [1, 2]⟩) (some 2003)) = .lt := by decide
theorem test_shorter_letters_are_lower :
    compareKeys { held 300 [] with letters := [81] } (held 1 []) = .lt := by decide
theorem test_limits_are_inclusive :
    betweenLimits (held 76 [9] (some ⟨90, [9, 0]⟩)) (held 76 [5]) (held 76 [9] (some ⟨90, [9]⟩)) = .eq := by decide
theorem test_above_the_upper_limit :
    betweenLimits (held 76 [9] (some ⟨90, [9]⟩) (some 1999)) (held 76 [5]) (held 76 [9] (some ⟨90, [9]⟩)) = .gt := by
  decide
theorem test_completion_discards_the_remainder : completion 37 5 0 = 864 := by decide
theorem test_completion_of_an_empty_run : completion 0 0 0 = 1000 := by decide

/-! ## Section Control -/

theorem test_configure_clamps : data (.configure .lp5 5 401 65535 9 0) (idle .halted) =
    some (.configured ⟨10, 400, 200, 10, 1⟩) := by decide +kernel
theorem test_start_opens_the_count : (after (.start .lp5) (idle .halted)).mode = .counting := by decide +kernel
theorem test_start_in_counting_is_refused : condition (.start .lp5) (idle .counting) = some .mode := by decide +kernel
theorem test_pause : (after (.pause .lp5) (idle .counting)).mode = .paused := by decide +kernel
theorem test_continue : (after (.continueCount .lp5) (idle .paused)).mode = .counting := by decide +kernel
theorem test_close_with_a_claim_is_busy : condition (.closeSection .lp5) counting = some .busy := by decide +kernel
theorem test_close_begins : data (.closeSection .lp5) (stock .ready) = some (.closing 7 1) := by decide +kernel
theorem test_close_completion :
    (after .closeCompletion { stock .ready with mode := .closing }).tallies 57 = ⟨0, 0, 0, 0, 0, 7⟩ := by decide +kernel
/-- 10.5, R158: OP_DONE of a close is raised, but not after a DEVICE_RESET was taken in CLOSING. -/
theorem test_close_raises_op_done : ∀ reset : Bool,
    ((after .closeCompletion { idle .closing with resetScheduled := reset }).port .lp5).held.opDone =
      if reset then none else some .close := by decide +kernel
theorem test_wipe : (after (.wipe .lp5) { stock .ready with mode := .closed }).pool = [] := by decide +kernel
theorem test_wipe_completion : (after .wipeCompletion (idle .wiping)).mode = .halted := by decide +kernel
/-- 10.6, R159: OP_DONE of a wipe is raised, but not after a DEVICE_RESET was taken in WIPING. -/
theorem test_wipe_raises_op_done : ∀ reset : Bool,
    ((after .wipeCompletion { idle .wiping with resetScheduled := reset }).port .lp5).held.opDone =
      if reset then none else some .wipe := by decide +kernel
theorem test_device_reset_waits : (after (.deviceReset .lp5) (idle .wiping)).mode = .wiping := by decide +kernel
theorem test_device_reset_effect :
    (after .deviceResetEffect (after (.deviceReset .lp5) (idle .wiping))).mode = .halted := by decide +kernel
theorem test_status : data (.status .lp5) (stock .ready) =
    some (.status .counting none 0 31 7 0 0 0) := by decide +kernel
theorem test_totals : data (.totals .lp5) (stock .ready) =
    some (.totals ⟨7, 0, 0, 0, 0, 0⟩ [279, 0, 1, 0, 0, 0, 0, 0, 0] 0) := by decide +kernel
theorem test_clock_runs_timers :
    ((after .sectionClockAdvance counting).claim? 57).map (·.timer) = some 119 := by decide +kernel
theorem test_clock_stops_when_halted : (after .sectionClockAdvance (idle .halted)).clock = 0 := by decide +kernel
theorem test_expiry :
    (after .claimExpiry (stock (.claimed { claim .lp1 31 with timer := 0 }) (some 57))).runState 57 = .rescan := by
  decide +kernel
theorem test_expiry_releases : ((after .claimExpiry (stock (.claimed { claim .lp1 31 with timer := 0 }) (some 57))).port
    .lp1).line = .held (.released 57 .expired) := by decide +kernel

/-! ## Loading -/

theorem test_load_run : data (.loadRun .lp5 279 (qa 76 [5]) (qa 76 [5]) 299) (idle .halted) = some (.length 300) := by
  decide +kernel
theorem test_load_run_refuses_crossed_limits :
    condition (.loadRun .lp5 0 (qa 77 []) (qa 76 []) 900) (idle .halted) = some .key := by decide +kernel
theorem test_load_item_takes_the_lowest_place : data (.loadItem .lp5 57 9 (qa 9999 []) 3) (stock .loading) =
    some (.itemLoaded 0 .onLoan none none) := by decide +kernel
theorem test_load_item_keeps_the_order :
    condition (.loadItem .lp5 57 9 (qa 76 [6]) 0) (stock .loading) = some .order := by decide +kernel
theorem test_load_done : (after (.loadDone .lp5 57) (stock .loading)).runState 57 = .ready := by decide +kernel
theorem test_unload_run : data (.unloadRun .lp5 57) (stock .loading) = some (.freed 7) := by decide +kernel
theorem test_unload_run_of_a_counted_run : condition (.unloadRun .lp5 57) (stock .ready) = some .state := by
  decide +kernel
theorem test_close_run : data (.closeRun .lp5 57) (stock .checked) = some (.runClosed 57 0) := by decide +kernel
theorem test_reset_passes : (after (.resetPasses .lp5 57) (stock .review)).runState 57 = .rescan := by decide +kernel

/-! ## Claims and passes -/

/-- 4.2: index 1 with bay A at 8 is run 57. -/
theorem test_claim : ((after (.claim .lp1 1) (stock .ready)).claim? 57).map (·.claimant) = some .lp1 := by decide +kernel
theorem test_claim_of_a_whole_bay : condition (.claim .lp1 7) (stock .ready) = some .range := by decide +kernel
theorem test_claim_next : (after (.claimNext .lp1) (stock .rescan)).wand .lp1 =
    { current := { context (some 57) with cursor := some ⟨.bayA, 1⟩ }, stack := [], slot := none } := by decide +kernel
theorem test_claim_next_finds_none : condition (.claimNext .lp1) (stock .checked) = some .none := by decide +kernel
theorem test_run_end_of_an_empty_pass : (after (.runEnd .lp1 57) counting).runState 57 = .checked := by decide +kernel
theorem test_run_end_of_another : condition (.runEnd .lp0 57) counting = some .notClaimant := by decide +kernel
theorem test_run_abandon : (after (.runAbandon .lp1 57) counting).runState 57 = .rescan := by decide +kernel
theorem test_run_abandon_records : ((after (.runAbandon .lp1 57) counting).discrepancies.map (·.reason)) =
    [some .runAbandon] := by decide +kernel
theorem test_force_release : (after (.forceRelease .lp5 57) diverted).runState 57 = .rescan := by decide +kernel
theorem test_force_release_of_a_free_run : condition (.forceRelease .lp5 57) (stock .ready) = some .state := by
  decide +kernel

/-! ## Sightings -/

/-- The first frame of 5.7.1. -/
def firstFrame : Instr :=
  .sight .lp1 [⟨0x04A177300C5E9B12, 20⟩, ⟨0x04A177300C5E9C40, 55⟩, ⟨0x04A1773522601140, 90⟩, ⟨0x04A177311D020A7E, 120⟩]

/-- 5.7.1: the first frame gives IN_RUN four times and L 120. -/
theorem test_sight_outcomes : data firstFrame counting =
    some (.sighted [(.inRun, false), (.inRun, false), (.inRun, false), (.inRun, false)] (some 120)) := by decide +kernel

/-- 5.7.1: after the first frame the tallies are EXPECTED 4, SHELVED 2, DISPLACED 1. -/
theorem test_sight_tallies : (after firstFrame counting).tallies 57 = ⟨4, 2, 1, 0, 0, 0⟩ := by decide +kernel

/-- 5.7.2: g2 with the anchor g3 and g4 arriving, in REVERSE travel, is IN_ORDER, and g4 then BEHIND. -/
theorem test_reverse_judgements :
    arrivalJudgement .reverse (some (held 77 [2] (some ⟨68, [1]⟩))) (held 77 [] (some ⟨67, [5]⟩))
        (held 77 [2] (some ⟨68, [1, 5]⟩)) = .inOrder ∧
      arrivalJudgement .reverse (some (held 77 [] (some ⟨67, [5]⟩))) (held 77 [2] (some ⟨68, [1, 5]⟩))
        (held 77 [] (some ⟨66, [1, 2]⟩)) = .behind := by decide

/-- 6.7.1: the third of three unknown tags finds the list full. -/
theorem test_strays_at_the_end_of_the_list :
    (after (.sight .lp1 [⟨1, 100⟩, ⟨1, 120⟩, ⟨1, 170⟩, ⟨2, 200⟩, ⟨3, 240⟩, ⟨3, 250⟩])
      { counting with strays := List.replicate 510 (stray 0xFFFF 0 1) }).claim? 57 =
    some { claim .lp1 31 with pass := { PassRecord.begin 31 .forward with
      lastPosition := some 250, counters := { Counters.zero with strays := 5 } } } := by decide +kernel

/-! ## Circulation -/

/-- 7.2: a LOAN of an entry already ON_LOAN makes a LOAN_CONFLICT record. -/
theorem test_loan_conflict :
    ((after (.loan .lp4 9) { stock .ready with pool := [(0, entry 9 (held 76 [5]) 57 .onLoan)] }).discrepancies.map
      (·.kind)) = [.loanConflict] := by decide +kernel
theorem test_loan_moves_the_tally :
    (after (.loan .lp4 0x04A177300C5E9B12) (stock .ready)).tallies 57 = ⟨6, 0, 0, 1, 0, 0⟩ := by decide +kernel
theorem test_return_of_an_expected_entry :
    (after (.returnItem .lp4 0x04A177300C5E9B12) (stock .ready)).tallies 57 = ⟨6, 0, 0, 0, 1, 0⟩ := by decide +kernel
theorem test_return_of_a_stray : condition (.returnItem .lp4 9) (stock .ready) = some .notListed := by decide +kernel

/-! ## Windows, diversion, masks -/

theorem test_set_window : ((after (.setWindow .lp1 39 0) counting).wand .lp1).current.bayA = 39 := by decide +kernel
theorem test_set_window_tests_both_bays : condition (.setWindow .lp1 0 40) counting = some .range := by decide +kernel
theorem test_set_direction_under_a_claim : condition (.setDirection .lp1 1) counting = some .holding := by decide +kernel
theorem test_set_direction : data (.setDirection .lp1 1) (stock .ready) = some (.direction .reverse) := by decide +kernel
theorem test_set_divert : ((after (.setDivert .lp5 1 20 21 1) counting).wand .lp1).slot = some ⟨20, 21, .reverse⟩ := by
  decide +kernel
theorem test_divert_of_an_empty_slot : condition (.divert .lp5 1) counting = some .empty := by decide +kernel
theorem test_divert_holds_the_run :
    (after (.divert .lp5 1) (after (.setDivert .lp5 1 20 21 1) counting)).runState 57 = .held := by decide +kernel
theorem test_resume : (after (.resume .lp1) diverted).runState 57 = .claimed := by decide +kernel
theorem test_resume_of_an_empty_stack : condition (.resume .lp0) (idle .paused) = some .empty := by decide +kernel
theorem test_set_mask : ((after (.setMask .lp4 0x1FF) (idle .closed)).port .lp4).mask = 0x1FF := by decide +kernel
theorem test_set_mask_of_no_kind : condition (.setMask .lp4 0x200) (idle .closed) = some .range := by decide +kernel

/-! ## Readings -/

theorem test_read_run_unloaded : data (.readRun .lp5 0) (stock .ready) = some (.runReport 0 none) := by decide +kernel
theorem test_read_entry_past_the_end : data (.readEntry .lp5 57 7) (stock .ready) = some (.itemCount 7) := by
  decide +kernel
theorem test_read_entry : (data (.readEntry .lp5 57 6) (stock .ready)) =
    some (.entryInList ⟨43, entry 0x04A17735226012A9 (held 76 [9] (some ⟨68, [3]⟩)) 57, none⟩ 7) := by decide +kernel
theorem test_read_stray : data (.readStray .lp5 0) { idle .closed with strays := [stray 9 10 3] } =
    some (.stray (stray 9 10 3) 1) := by decide +kernel
theorem test_read_discrepancy : data (.readDiscrepancy .lp5) { idle .closed with discrepancies := [someRecord] } =
    some (.discrepancy someRecord 0 0) := by decide +kernel
theorem test_read_discrepancy_of_none : condition (.readDiscrepancy .lp5) (idle .closed) = some .empty := by
  decide +kernel

/-- The runs of 1.4.1. -/
def located : State :=
  { idle .counting with
    runs :=
      [(56, { loaded .ready [] with lower := held 75 [], upper := held 76 [4, 9] (some ⟨90, [9]⟩) }),
        (57, { loaded .ready [] with lower := held 76 [5], upper := held 76 [9] (some ⟨90, [9]⟩) }),
        (58, { loaded .loading [] with lower := held 76 [9] (some ⟨90, [9]⟩), upper := held 78 [] }),
        (140, { loaded .closed [] with lower := held 76 [8], upper := held 76 [9, 5] })] }

/-- 1.4.1: LOCATE "QA 76.9 .Z9" gives runs 57, 58 and 140. -/
theorem test_locate : data (.locate .lp5 (qa 76 [9] (cutter 90 [9]))) located =
    some (.located 3 [57, 58, 140] .absent) := by decide +kernel

/-- 1.4.1: LOCATE "QA 76.495" gives none, and the preceding run 56. -/
theorem test_locate_between : data (.locate .lp5 (qa 76 [4, 9, 5])) located =
    some (.located 0 [] (.run 56)) := by decide +kernel

theorem test_query_run : data (.queryRun .lp1 1) counting = some (.shelfReport ⟨.bayA, 1⟩ 57 .claimed
    (some ⟨7, ⟨7, 0, 0, 0, 0, 0⟩, 0, 1, .noPass⟩) (some (.lp1, true))) := by decide +kernel
theorem test_query_bay_without_runs : (data (.queryRun .lp1 15) counting).map (fun d =>
    match d with
    | .bayReport x => x.completion
    | _ => 0) = some 1000 := by decide +kernel
theorem test_query_item : condition (.queryItem .lp4 0x04A177300C5E9B12) (stock .ready) = some .ok := by decide +kernel
theorem test_query_item_of_a_stray : condition (.queryItem .lp0 9) { idle .halted with strays := [stray 9 10 3] } =
    some .notListed := by decide +kernel

/-! ## Lines and pins -/

theorem test_frame_joins_the_buffer :
    ((after (.frameReceived .lp5 (Frame.make 0x08 []).bytes) (idle .halted)).port .lp5).buffer.length = 1 := by
  decide +kernel
theorem test_frame_rejected : ((after (.frameRejected .lp5) (withPort .lp5 fun q =>
    { q with inbox := [unhandled { Frame.make 0x08 [] with check := 0 }] })).port .lp5).lastResponse =
      some ⟨0, .frame, .empty⟩ := by decide +kernel
theorem test_frame_timeout : ((after (.frameTimeout .lp2) (withPort .lp2 fun q =>
    { q with receiver := .collecting [0xA5, 1] })).port .lp2).receiver = .hunting := by decide +kernel
theorem test_transmit_end : ((after (.transmitFrameEnd .lp0) (withPort .lp0 fun q =>
    { q with line := .held .queueFull, prompts := [.gap 1 2] })).port .lp0).line = .prompt (.gap 1 2) := by
  decide +kernel
theorem test_port_reset_abandons : (after (.portReset .lp1) diverted).runState 57 = .rescan := by decide +kernel
theorem test_break_end : (after (.breakEnd .lp1) (after (.portReset .lp1) (idle .halted))).pins.breakLow.lp1 = false := by
  decide +kernel
theorem test_power_on : (after .powerOn counting).runs = [] := by decide +kernel
theorem test_external_reset_holds : (after (.start .lp5) (after .externalReset (idle .halted))).mode = .halted := by
  decide +kernel
theorem test_reset_release : (after .resetRelease (after .externalReset (idle .halted))).receiving = false := by
  decide +kernel
theorem test_start_byte : ((after (.startByte .lp3) (idle .halted)).port .lp3).receiver = .collecting [0xA5] := by
  decide +kernel
theorem test_frame_length_invalid : ((after (.frameLengthInvalid .lp3 251)
    (withPort .lp3 fun q => { q with receiver := .collecting [0xA5] })).port .lp3).receiver = .hunting := by
  decide +kernel
theorem test_receive_enable : (after .receiveEnable State.reset).receiving = true := by decide +kernel

/-- A command that arrives before 2 ms have passed is not received (11.6). -/
theorem test_nothing_is_received_before : (after (.start .lp5) State.reset).mode = .halted := by decide +kernel

/-- `step` takes the front of the queue. -/
theorem test_step : step { idle .halted with pending := [.start .lp5, .pause .lp5] } =
    exec (.start .lp5) { idle .halted with pending := [.pause .lp5] } := by rfl

/-! ## Witnesses: states and operands that meet the hypotheses of the statements, clause by clause -/

/-- `RolesAdmitTheirRequestSets`: a supervisor request on a wand port. -/
theorem witness_roles : (Instr.start .lp0).request = some (.lp0, .start, []) ∧ (Instr.start .lp0).wellFormed = true ∧
    (idle .closing).Ready .lp0 ∧ RequestKind.inRole .start (Port.role .lp0) = false := by decide +kernel

/-- `ModesAdmitTheirRequests`: a request refused MODE, and one answered BUSY. -/
theorem witness_modes : (Instr.start .lp5).request = some (.lp5, .start, []) ∧ (Instr.start .lp5).wellFormed = true ∧
    RequestKind.inRole .start (Port.role .lp5) = true ∧
    ((idle .closed).Ready .lp5 ∧ RequestKind.modeTest .start (idle .closed).mode = some .mode) ∧
    (idle .wiping).Ready .lp5 ∧ RequestKind.modeTest .start (idle .wiping).mode = some .busy := by decide +kernel

/-- `EachHandledRequestIsAnsweredOnce` and `ReceivingThenHandlingIsTheRequest`: a SIGHT of eight sightings on a port with
nothing in hand. -/
theorem witness_answered : ∃ payload,
    (Instr.sight .lp1 (List.replicate 8 ⟨1, 0⟩)).request = some (.lp1, .sight, payload) ∧
      (Instr.sight .lp1 (List.replicate 8 ⟨1, 0⟩)).wellFormed = true ∧ counting.Ready .lp1 ∧
      (counting.port .lp1).inbox = [] ∧ (counting.port .lp1).line = .idle ∧ counting.LinesBusy :=
  ⟨_, rfl, by decide +kernel, by decide +kernel, rfl, rfl, rfl⟩

/-- A buffered frame whose response is on the line. -/
def sendingSlot : Slot := ⟨Frame.make 0x08 [], true, .sending ⟨0x08, .ok, .empty⟩⟩

/-- A turned-away frame whose BUSY waits. -/
def busySlot : Slot := ⟨Frame.make 0x08 [], false, .waiting ⟨0x08, .busy, .empty⟩⟩

/-- `WholeFrameIsOfferedToTheBuffer`: the longest frame; a port that receives nothing; a buffer of 1 and of 2, with 1 and
with 2 BUSY answers waiting. -/
theorem witness_offer : (Frame.make 0x34 (List.replicate 249 0)).payload.length + 1 ≤ 250 ∧
    (State.reset.Quiet ∧ State.reset.canReceive .lp2 = false) ∧
    (let s := withPort .lp2 fun q => { q with line := .response, inbox := [sendingSlot] };
      s.Quiet ∧ s.canReceive .lp2 = true ∧ (s.port .lp2).receiver = .hunting ∧ (s.port .lp2).buffer.length < 2) ∧
    (let s := withPort .lp2 fun q =>
        { q with line := .response, inbox := [sendingSlot, unhandled (Frame.make 0x08 []), busySlot] };
      s.Quiet ∧ s.canReceive .lp2 = true ∧ (s.port .lp2).receiver = .hunting ∧ 2 ≤ (s.port .lp2).buffer.length ∧
        (s.port .lp2).busyWaiting.length < 2) ∧
    (let s := withPort .lp2 fun q =>
        { q with line := .response, inbox := [sendingSlot, unhandled (Frame.make 0x08 []), busySlot, busySlot] };
      s.Quiet ∧ s.canReceive .lp2 = true ∧ (s.port .lp2).receiver = .hunting ∧ 2 ≤ (s.port .lp2).buffer.length ∧
        2 ≤ (s.port .lp2).busyWaiting.length) := by decide +kernel

/-- A frame whose last byte is the start byte. -/
def lastStart : Frame := { kind := 0x08, payload := [], check := 0x01A5 }

/-- `ReceiveSideHuntsAndCollects`: hunting, and a byte that is no start byte; a frame with two bytes still to come; the
lengths 0 and 251; a frame whose last byte, 0xA5, is still to come. -/
theorem witness_receive_side :
    ((idle .halted).Quiet ∧ (idle .halted).canReceive .lp3 = true ∧ ((idle .halted).port .lp3).receiver = .hunting ∧
      (0xA4 : Byte) ≠ 0xA5#8) ∧
    (let s := withPort .lp3 fun q => { q with receiver := .collecting [0xA5, 1, 8] };
      s.Quiet ∧ s.canReceive .lp3 = true ∧ (s.port .lp3).receiver = .collecting (0xA5 :: 1 :: [8]) ∧
        ([8] : List Byte).length + 1 < (1 : Byte).toNat + 2) ∧
    (let s := withPort .lp3 fun q => { q with receiver := .collecting [0xA5] };
      s.Quiet ∧ s.canReceive .lp3 = true ∧ (s.port .lp3).receiver = .collecting [0xA5] ∧
        (0 : Byte).toNat = 0 ∧ 250 < (251 : Byte).toNat) ∧
    (let s := withPort .lp3 fun q => { q with receiver := .collecting [0xA5, 1, 8, 1] };
      s.Quiet ∧ s.canReceive .lp3 = true ∧ (s.port .lp3).receiver = .collecting [0xA5, 1, 8, 1] ∧
        lastStart.payload.length + 1 ≤ 250 ∧ lastStart.bytes = [0xA5, 1, 8, 1] ++ [0xA5#8]) := by decide +kernel

/-- `FailedFrameChecksAreAnswered`: a wrong check, an unknown kind, a wrong length. -/
theorem witness_failed_checks :
    (∀ f : Frame, (withPort .lp5 fun q => { q with inbox := [unhandled f] }).Quiet ∧
      (withPort .lp5 fun q => { q with inbox := [unhandled f] }).blocked .lp5 = false ∧
      ((withPort .lp5 fun q => { q with inbox := [unhandled f] }).port .lp5).next? = some f) ∧
    (crc (Frame.checked ⟨0x08, [], 0⟩) ≠ (⟨0x08, [], 0⟩ : Frame).check) ∧
    (crc (Frame.make 0x52 []).checked = (Frame.make 0x52 []).check ∧
      ∀ k : RequestKind, k.code ≠ (Frame.make 0x52 []).kind) ∧
    crc (Frame.make 0x08 [0]).checked = (Frame.make 0x08 [0]).check ∧
      RequestKind.code .status = (Frame.make 0x08 [0]).kind ∧
      RequestKind.lengthOk .status (Frame.make 0x08 [0]).payload.length = false := by
  refine ⟨fun f => ⟨⟨rfl, rfl⟩, rfl, rfl⟩, by decide +kernel, ⟨by decide +kernel, fun k => ?_⟩, by decide +kernel⟩
  cases k <;> decide

/-- `TransmitLineEndsItsFrameAndChooses`: a line that sends a response, one that does not, and one that does not while LP5
sends the response to a DEVICE_RESET; an idle line with a waiting
response, with a prompt, with a held notice behind a masked one, and with nothing. -/
theorem witness_transmit :
    (let s := withPort .lp2 fun q => { q with line := .response, inbox := [sendingSlot] };
      s.Quiet ∧ s.sendsResetResponse = false ∧ (s.port .lp2).line = .response) ∧
    ((idle .halted).Quiet ∧ (idle .halted).sendsResetResponse = false ∧ ((idle .halted).port .lp2).line ≠ .response) ∧
    (let s := after (.deviceReset .lp5) (idle .wiping);
      s.Quiet ∧ Port.lp2 ≠ .lp5 ∧ s.sendsResetResponse = true ∧ (s.port .lp2).line ≠ .response) ∧
    (let q : LinkPort := { LinkPort.default with inbox := [unhandled (Frame.make 0x08 []), busySlot] };
      q.line = .idle ∧ q.inbox = [unhandled (Frame.make 0x08 [])] ++ busySlot :: [] ∧
        [unhandled (Frame.make 0x08 [])].all (fun y => !y.phase.isWaiting) = true ∧
        busySlot.phase = .waiting ⟨0x08, .busy, .empty⟩) ∧
    (let q : LinkPort := { LinkPort.default with prompts := [.gap 1 2] };
      q.line = .idle ∧ q.inbox.all (fun y => !y.phase.isWaiting) = true ∧ q.prompts = .gap 1 2 :: []) ∧
    (let q : LinkPort := { LinkPort.default with
        mask := 8, held := { HeldFlags.clear with released := some (0, .forced), mode := some .closed } };
      q.line = .idle ∧ q.inbox.all (fun y => !y.phase.isWaiting) = true ∧ q.prompts = [] ∧
        (∀ j ∈ [NoticeKind.diverted, .released], q.held.get? j = none ∨ masks q.mask j = true) ∧
        q.held.get? .mode = some (.mode .closed) ∧ masks q.mask .mode = false) ∧
    (LinkPort.default.line = .idle ∧ LinkPort.default.prompts = []) := by decide +kernel

/-- `BreakResetsItsPort`: a break that goes on, one that begins on a wand port, one on LP4. -/
theorem witness_break :
    (((idle .halted).setBreak .lp1 true).Quiet ∧ ((idle .halted).setBreak .lp1 true).pins.breakLow.get .lp1 = true) ∧
    (counting.Quiet ∧ counting.pins.breakLow.get .lp1 = false ∧ counting.blocked .lp1 = false ∧
      Port.wand? .lp1 = some .lp1) ∧
    counting.pins.breakLow.get .lp4 = false ∧ counting.blocked .lp4 = false ∧ Port.wand? .lp4 = none := by
  decide +kernel

/-- `ResetsGivePowerOnValues`: RST_N low and high, before and after receiving begins; and a request and a break that find
the part held in reset. -/
theorem witness_resets :
    (let s := after .externalReset State.reset;
      s.pins.resetLow = true ∧ s = { State.reset with pending := s.pending, pins := s.pins }) ∧
    State.reset.pins.resetLow = false ∧ (State.reset.Quiet ∧ State.reset.receiving = false) ∧ (idle .halted).Quiet ∧
    (idle .halted).receiving = true ∧ Instr.start .lp5 ∉ [Instr.powerOn, .externalReset, .resetRelease] ∧
    (∀ p, Instr.start .lp5 ≠ .portReset p ∧ Instr.start .lp5 ≠ .breakEnd p) ∧ Instr.portReset .lp1 ≠ .resetRelease ∧
    ∃ t, exec (.portReset .lp1) (after .externalReset State.reset) = .next t := by
  refine ⟨by decide +kernel, by decide, by decide, by decide, by decide, by decide, fun p => ⟨nofun, nofun⟩, nofun, _, rfl⟩

/-- `DeviceResetTakesEffectAfterItsResponse`: the request taken, and its response on the line; a request that arrives
meanwhile, and one that stands in the buffer. -/
theorem witness_device_reset : (idle .wiping).Ready .lp5 ∧
    (let s := after (.deviceReset .lp5) (idle .wiping);
      s.Quiet ∧ s.sendsResetResponse = true ∧ s.resetScheduled = true ∧ s.pins.breakLow.lp5 = false ∧
        (s.port .lp5).next? ≠ some (Frame.make 0x08 [])) ∧
    (let s := { withPort .lp5 (fun q => { q with inbox := [unhandled (Frame.make 0x08 [])] }) with resetScheduled := true };
      s.Quiet ∧ s.resetScheduled = true ∧ (s.port .lp5).next? = some (Frame.make 0x08 [])) ∧
    (Instr.status .lp5).request = some (.lp5, .status, []) ∧ RequestKind.code .status = 0x08 ∧
    (idle .wiping).Quiet ∧ (idle .wiping).sendsResetResponse = false := by decide +kernel

/-- `ConfigureWritesClampedParameters`, `StartPauseContinueChangeTheMode`, `ClockAdvanceCountsAndRunsTimers`,
`CloseCompletionClosesTheSection`, `WipeEmptiesThePart`, `StatusAndTotalsReportThePart`: the part in each mode. -/
theorem witness_modes_of_the_part :
    ∀ m ∈ [Mode.halted, .counting, .paused, .closing, .closed, .wiping],
      (idle m).Ready .lp5 ∧ (idle m).Quiet ∧ (idle m).mode = m := by decide +kernel

/-- `CloseCompletionClosesTheSection`, `WipeEmptiesThePart`: an operation in flight, without and with a DEVICE_RESET that
awaits its effect. -/
theorem witness_completions : ∀ m ∈ [Mode.closing, .wiping],
    (idle m).resetScheduled = false ∧
      (let s := after (.deviceReset .lp5) (idle m); s.Quiet ∧ s.mode = m ∧ s.resetScheduled = true) := by decide +kernel

/-- `ClockAdvanceCountsAndRunsTimers`: a claimed run, and one that is not. -/
theorem witness_clock : counting.Quiet ∧ counting.mode = .counting ∧
    counting.run 57 = some (loaded (.claimed (claim .lp1 31)) [37, 38, 39, 40, 41, 42, 43]) ∧
    diverted.Quiet ∧ diverted.mode = .counting ∧
    diverted.run 57 = some (loaded (.held (claim .lp1 31)) [37, 38, 39, 40, 41, 42, 43]) := by decide +kernel

/-- Run 57 with its claim timer at 0. -/
def runOut : State := stock (.claimed { claim .lp1 31 with timer := 0 }) (some 57)

/-- `ClaimsThatRanOutExpire`: a claim that has run out, and a request that finds it so. -/
theorem witness_expiry : runOut.pins.resetLow = false ∧ runOut.Canonical ∧ runOut.expiriesDue ≠ [] ∧
    Instr.claim .lp1 1 ≠ .resetRelease ∧ ∃ t, exec .claimExpiry runOut = .next t :=
  ⟨rfl, ⟨by decide +kernel, by decide +kernel⟩, by decide +kernel, nofun, _, rfl⟩

/-- `CloseSectionBeginsTheClose`: a claimed run, a loading one, neither. -/
theorem witness_close_section :
    (counting.Ready .lp5 ∧ counting.mode.Opened ∧
      ∃ x ∈ counting.runs, x.2.stage.state = .claimed ∨ x.2.stage.state = .held) ∧
    ((stock .loading).Ready .lp5 ∧
      (∀ x ∈ (stock .loading).runs, x.2.stage.state ≠ .claimed ∧ x.2.stage.state ≠ .held) ∧
      ∃ x ∈ (stock .loading).runs, x.2.stage.state = .loading) ∧
    (stock .ready).Ready .lp5 ∧
      (∀ x ∈ (stock .ready).runs, x.2.stage.state ≠ .claimed ∧ x.2.stage.state ≠ .held) ∧
      ∀ x ∈ (stock .ready).runs, x.2.stage.state ≠ .loading := by decide +kernel

/-- A part with run 57 alone has loaded no other. -/
theorem stock_run {s : State} {x : LoadedRun} (h : s.runs = [(57, x)]) {r : RunNo} {y : LoadedRun}
    (hy : s.run r = some y) : r = 57 ∧ y = x := by
  simp only [State.run, h, tableGet] at hy
  split at hy
  · rename_i hr
    exact ⟨hr.symm, (Option.some.inj hy).symm⟩
  · cases hy

/-- One loaded run with one entry. -/
def small : State :=
  { idle .counting with
    pool := [(0, entry 9 (held 76 []) 57)], runs := [(57, loaded .ready [0])] }

/-- `TotalsAddUp` and `RegisterAccountIsKept`: a part with a run and an entry whose account holds, and its next step. -/
theorem witness_account : small.Accounted ∧ ∃ t, step small = .next t := by
  refine ⟨⟨⟨by decide, by decide⟩, by decide, by decide, fun r x h => ?_⟩, _, rfl⟩
  obtain ⟨rfl, rfl⟩ := stock_run rfl h
  refine ⟨by decide, fun i => ?_, fun st => by cases st <;> decide, by decide +kernel, by decide +kernel⟩
  simp only [loaded, List.mem_singleton]
  constructor
  · rintro rfl
    exact ⟨_, rfl, rfl⟩
  · rintro ⟨e, he, -⟩
    by_contra hne
    have : (0 : Nat) ≠ i := fun h' => hne h'.symm
    simp [State.entry, small, idle, tableGet, this] at he

/-- `LoadRunOpensTheRun`: runs 280 and 279, malformed, crossed and equal limits, a loaded run and an unloaded one. -/
theorem witness_load_run : (stock .ready).Ready .lp5 ∧ (stock .ready).mode.Loadable ∧ 280 ≤ (280 : U16).toNat ∧
    (279 : U16).toNat = (279 : RunNo).val ∧ readKey (qa 10000 []) = none ∧
    readKey (qa 76 []) = some (held 76 []) ∧ readKey (qa 77 []) = some (held 77 []) ∧
    compareKeys (held 77 []) (held 76 []) = .gt ∧ compareKeys (held 76 []) (held 76 []) ≠ .gt ∧
    (stock .ready).runState 57 ≠ .unloaded ∧ (stock .ready).runState 279 = .unloaded := by decide +kernel

/-- A run LOADING with the most entries a run takes. -/
def fullRun : State := { stock .loading with runs := [(57, loaded .loading (List.replicate 240 37))] }

/-- `LoadItemChecksInOrder`: each test that fails, with those before it passed. -/
theorem witness_load_item_checks : (stock .loading).Ready .lp5 ∧ (stock .loading).mode.Loadable ∧
    280 ≤ (280 : U16).toNat ∧ (57 : U16).toNat = (57 : RunNo).val ∧ readKey (qa 76 [10]) = none ∧
    readKey (qa 76 [9, 5]) = some (held 76 [9, 5]) ∧
    ((1 : Byte).toNat ≠ 0 ∧ (1 : Byte).toNat ≠ 3) ∧ (3 : Byte).toNat = 3 ∧
    (stock .ready).runState 57 ≠ .loading ∧
    (stock .loading).run 57 = some (loaded .loading [37, 38, 39, 40, 41, 42, 43]) ∧
    betweenLimits { held 0 [] with letters := [80] } (held 0 []) (held 9999 []) ≠ .eq ∧
    betweenLimits (held 76 [9, 5]) (held 0 []) (held 9999 []) = .eq ∧
    (∃ e, (stock .loading).entry 43 = some e ∧ compareKeys (held 76 [6]) e.key = .lt ∧
      compareKeys (held 76 [9, 5]) e.key ≠ .lt) ∧
    (∃ y ∈ (stock .loading).pool, y.2.tag = 0x04A17735226012A9) ∧
    (∀ y ∈ fullRun.pool, y.2.tag ≠ 9) ∧ 240 ≤ (List.replicate 240 37).length ∧
    fullRun.run 57 = some (loaded .loading (List.replicate 240 37)) := by
  refine ⟨by decide +kernel, by decide, by decide, by decide, by decide, by decide, by decide, by decide, by decide +kernel,
    by decide +kernel, by decide, by decide, ⟨_, rfl, by decide, by decide⟩, by decide +kernel, by decide +kernel,
    by decide +kernel, by decide +kernel⟩

/-- `LoadItemCreatesOrAdopts`: a run LOADING, its last key equal to the new one, without and with a stray of the tag. -/
theorem witness_load_item : (stock .loading).Ready .lp5 ∧ (stock .loading).mode.Loadable ∧
    (stock .loading).Canonical ∧ (57 : U16).toNat = (57 : RunNo).val ∧
    readKey (qa 76 [9] (cutter 68 [3])) = some (held 76 [9] (some ⟨68, [3]⟩)) ∧
    ((0 : Byte).toNat = 0 ∧ (3 : Byte).toNat = 3) ∧
    (stock .loading).run 57 = some (loaded .loading [37, 38, 39, 40, 41, 42, 43]) ∧
    betweenLimits (held 76 [9] (some ⟨68, [3]⟩)) (held 0 []) (held 9999 []) = .eq ∧
    (∃ e, (stock .loading).entry 43 = some e ∧ compareKeys (held 76 [9] (some ⟨68, [3]⟩)) e.key ≠ .lt) ∧
    (∀ y ∈ (stock .loading).pool, y.2.tag ≠ 9) ∧ (stock .loading).pool.length < 12288 ∧
    (∀ y ∈ (stock .loading).strays, y.tag ≠ 9) ∧
    ([stray 9 10 3] : List Stray) = [] ++ stray 9 10 3 :: [] ∧ (stray 9 10 3).tag = 9 := by
  refine ⟨by decide +kernel, by decide, ⟨by decide +kernel, by decide +kernel⟩, by decide, by decide, by decide,
    by decide +kernel, by decide, ⟨_, rfl, by decide⟩, by decide +kernel, by decide +kernel, by decide +kernel, rfl, rfl⟩

/-- `RunRequestsMoveTheirRuns`: run 57 in the states that each request takes and in one that it refuses. -/
theorem witness_run_requests : 280 ≤ (280 : U16).toNat ∧ (57 : U16).toNat = (57 : RunNo).val ∧
    (∀ g ∈ [Stage.loading, .ready, .checked, .rescan, .review, .closed],
      (stock g).Ready .lp5 ∧ (stock g).mode.Loadable ∧
        (stock g).run 57 = some (loaded g [37, 38, 39, 40, 41, 42, 43])) ∧
    (stock .ready).run 0 = none ∧ (stock .ready).runState 57 ≠ .loading ∧
    ¬ (Stage.ready = .loading ∨ Stage.ready = .ready ∧ (loaded .ready []).passCount = 0) ∧
    (stock .closed).runState 57 ∉ [RunState.ready, .checked, .rescan, .review] := by decide +kernel

/-- `ClaimBeginsAPass`: the indices 7, 15, 6 and 8; a READY run; a claim held; the last serial and the one before. -/
theorem witness_claim : (stock .ready).Ready .lp1 ∧ (stock .ready).mode = .counting ∧ (7 : Byte).toNat = 7 ∧
    15 ≤ (15 : Byte).toNat ∧ ShelfIndex.number ⟨.bayA, 6⟩ = (6 : Byte).toNat ∧
    ShelfIndex.number ⟨.bayB, 0⟩ = (8 : Byte).toNat ∧ (57 : RunNo) = (context none).resolve ⟨.bayA, 1⟩ ∧
    (stock .checked).runState 57 ≠ .ready ∧ (stock .checked).runState 57 ≠ .rescan ∧
    (stock .ready).run 57 = some (loaded .ready [37, 38, 39, 40, 41, 42, 43]) ∧
    (stock .rescan (some 0)).Ready .lp1 ∧ ((stock .rescan (some 0)).wand .lp1).current.claimedRun ≠ none ∧
    ((stock .ready).wand .lp1).current.claimedRun = none ∧
    (0xFFFFFFFF : U32).toNat = 4294967295 ∧ (0xFFFFFFFE : U32).toNat < 4294967295 := by decide +kernel

/-- `ClaimNextSearchesTheWindow`: no run to claim, and run 57 at index 1 after index 0. -/
theorem witness_claim_next : (stock .ready).Ready .lp1 ∧ (stock .ready).mode = .counting ∧
    ((stock .rescan (some 0)).wand .lp1).current.claimedRun ≠ none ∧
    (∀ j ∈ windowOrder, ¬ ((stock .checked).runState ((context none).resolve j) = .ready ∨
      (stock .checked).runState ((context none).resolve j) = .rescan)) ∧
    (windowOrder.filter fun j => (none : Option ShelfIndex).all fun k => decide (k.number < j.number)) =
      [⟨.bayA, 0⟩] ++ ⟨.bayA, 1⟩ :: windowOrder.drop 2 ∧
    ¬ ((stock .ready).runState ((context none).resolve ⟨.bayA, 0⟩) = .ready ∨
      (stock .ready).runState ((context none).resolve ⟨.bayA, 0⟩) = .rescan) ∧
    (stock .ready).runState ((context none).resolve ⟨.bayA, 1⟩) = .ready ∧
    (57 : RunNo) = (context none).resolve ⟨.bayA, 1⟩ := by decide +kernel

/-- `OnlyTheClaimantEndsItsPass`: an unloaded run, another's claim, a held run, a pass of the port ended, another's. -/
theorem witness_only_the_claimant : counting.Ready .lp0 ∧ counting.mode.Opened ∧ 280 ≤ (280 : U16).toNat ∧
    (57 : U16).toNat = (57 : RunNo).val ∧ counting.run 0 = none ∧ (claim .lp1 31).claimant ≠ .lp0 ∧
    counting.run 57 = some (loaded (.claimed (claim .lp1 31)) [37, 38, 39, 40, 41, 42, 43]) ∧
    diverted.run 57 = some (loaded (.held (claim .lp1 31)) [37, 38, 39, 40, 41, 42, 43]) ∧
    Stage.claim? .checked = none ∧ LastPass.port? (.clean .lp0 31) = some .lp0 ∧
    LastPass.port? .noPass ≠ some .lp0 := by decide +kernel

/-- Run 57 with a pending entry, and with an anchor or none. -/
def pendingPass (anchor : Option Nat) (i : Nat) : State :=
  midPass fun p => { p with anchor := anchor, pendingEntry := some i, lastPosition := some 90 }

/-- `RunEndJudgesAndEndsThePass`: no pending entry; one with no anchor; one after the anchor; one before it; and counters
that are and are not clean. -/
theorem witness_run_end : counting.Ready .lp1 ∧ counting.mode.Opened ∧ (57 : U16).toNat = (57 : RunNo).val ∧
    counting.run 57 = some (loaded (.claimed (claim .lp1 31)) [37, 38, 39, 40, 41, 42, 43]) ∧
    (pendingPass none 41).Ready .lp1 ∧ ((pendingPass none 41).claim? 57).map (·.pass.anchor) = some none ∧
    ((pendingPass (some 38) 41).entry 38).map (·.key) = some (held 76 [5, 8] (some ⟨66, [4]⟩)) ∧
    ((pendingPass (some 38) 41).entry 41).map (·.key) = some (held 76 [7, 3] (some ⟨74, [3, 8]⟩)) ∧
    comesBefore .forward (held 76 [5, 8] (some ⟨66, [4]⟩)) (held 76 [7, 3] (some ⟨74, [3, 8]⟩)) = true ∧
    comesBefore .forward (held 76 [7, 3] (some ⟨74, [3, 8]⟩)) (held 76 [5, 8] (some ⟨66, [4]⟩)) = false ∧
    Counters.zero.ahead = 0 ∧ ({ Counters.zero with ahead := 1 } : Counters).ahead ≠ 0 ∧
    (loaded .ready []).passCount < counting.config.passLimit := by decide +kernel

/-- `AbandonAndForceReleaseEndPasses` and `AbandonedPassEndsWithoutJudgement`: a claimed run, a held run, a free one. -/
theorem witness_abandon : counting.mode.Opened ∧ counting.Ready .lp1 ∧ counting.Ready .lp5 ∧ diverted.Ready .lp5 ∧
    counting.run 57 = some (loaded (.claimed (claim .lp1 31)) [37, 38, 39, 40, 41, 42, 43]) ∧
    diverted.run 57 = some (loaded (.held (claim .lp1 31)) [37, 38, 39, 40, 41, 42, 43]) ∧
    (claim .lp1 31).claimant = .lp1 ∧ counting.claim? 0 = none ∧ counting.discrepancies.length < 256 ∧
    256 ≤ (List.replicate 256 someRecord).length := by decide +kernel

/-- `SightTakesItsSightingsInOrder`: one sighting and eight, without and under a claim. -/
theorem witness_sight : (stock .ready).Ready .lp1 ∧ (stock .ready).mode = .counting ∧
    ((stock .ready).wand .lp1).current.claimedRun = none ∧ counting.Ready .lp1 ∧
    (counting.wand .lp1).current.claimedRun = some 57 ∧
    counting.run 57 = some (loaded (.claimed (claim .lp1 31)) [37, 38, 39, 40, 41, 42, 43]) ∧
    1 ≤ ([⟨1, 0⟩] : List Sighting).length ∧ (List.replicate 8 (⟨1, 0⟩ : Sighting)).length ≤ 8 ∧
    (∃ o t, counting.sightOne 57 .lp1 ⟨1, 0⟩ = (o, t)) ∧ ∃ os u, counting.sightAll 57 .lp1 [] = (os, u) := by
  refine ⟨by decide +kernel, by decide, by decide, by decide +kernel, by decide, by decide +kernel, by decide, by decide,
    ⟨_, _, rfl⟩, _, _, rfl⟩

/-- `PositionTestsComeBeforeClassification`: an advance of -61, of -60, of 150 and of 151 from 90. -/
theorem witness_positions : counting.run 57 = some (loaded (.claimed (claim .lp1 31)) [37, 38, 39, 40, 41, 42, 43]) ∧
    (claim .lp1 31).pass.lastPosition = none ∧
    ((pendingPass none 41).claim? 57).bind (·.pass.lastPosition) = some 90 ∧
    (29 : Int) - 90 < -(counting.config.backtrackTolerance : Int) ∧
    -(counting.config.backtrackTolerance : Int) ≤ (30 : Int) - 90 ∧
    (240 : Int) - 90 ≤ (counting.config.gapLimit : Int) ∧ (counting.config.gapLimit : Int) < (241 : Int) - 90 := by
  decide +kernel

/-- `ArrivingItemJudgesThePendingOne`: no pending entry; one with no anchor, before and after the arriving key; one with
an anchor, on either side of both. -/
theorem witness_arrival : (claim .lp1 31).pass.pendingEntry = none ∧
    ((pendingPass none 41).claim? 57).bind (·.pass.pendingEntry) = some 41 ∧
    ((pendingPass none 41).entry 41).isSome = true ∧ ((pendingPass (some 38) 41).entry 38).isSome = true ∧
    travelCompare .forward (held 76 [6]) (held 76 [7, 3] (some ⟨74, [3, 8]⟩)) = .lt ∧
    travelCompare .forward (held 76 [9]) (held 76 [7, 3] (some ⟨74, [3, 8]⟩)) ≠ .lt ∧
    travelCompare .forward (held 76 [5]) (held 76 [5, 8] (some ⟨66, [4]⟩)) = .lt ∧
    travelCompare .forward (held 76 [6]) (held 76 [5, 8] (some ⟨66, [4]⟩)) ≠ .lt ∧
    travelCompare .reverse (held 76 [7, 3] (some ⟨74, [3, 8]⟩)) (held 76 [5, 8] (some ⟨66, [4]⟩)) = .lt := by
  decide +kernel

/-- An entry of run 57 read in a pass. -/
def readEntry : Entry := { entry 9 (held 76 []) 57 with lastSighting := some (readAt 90) }

/-- Run 57 claimed, with that entry alone. -/
def reading : State := { counting with pool := [(0, readEntry)] }

/-- `JudgementWritesItsEntry` and `SecondReadingsAreAbsorbedOrMoves`: an entry read at 90 in the pass, read again at 130
and at 131. -/
theorem witness_judgement : reading.run 57 = some (loaded (.claimed (claim .lp1 31)) [37, 38, 39, 40, 41, 42, 43]) ∧
    reading.entry 0 = some readEntry ∧ readEntry.homeRun = 57 ∧ readEntry.lastSighting = some (readAt 90) ∧
    reading.Canonical ∧ reading.lookup 9 = some (0, readEntry) ∧ (readAt 90).serial = (claim .lp1 31).pass.serial ∧
    ¬ ((readAt 90).run ≠ 57 ∨ 90 + reading.config.debounceSpan < 130 ∨ 130 + reading.config.debounceSpan < 90) ∧
    90 + reading.config.debounceSpan < 131 :=
  ⟨by decide +kernel, by decide +kernel, rfl, rfl, ⟨by decide +kernel, by decide +kernel⟩, by decide +kernel, rfl,
    by decide +kernel, by decide +kernel⟩

/-- An entry of run 57, and one of run 56, read last in an earlier pass. -/
def earlier : State :=
  { counting with
    pool := [(0, { readEntry with lastSighting := some (readAt 90 30) }), (1, entry 8 (held 75 []) 56 .onLoan)] }

/-- `FreshReadingsAreHomeItemsOrVisitors`: a home item and a visitor. -/
theorem witness_fresh : earlier.Canonical ∧
    earlier.run 57 = some (loaded (.claimed (claim .lp1 31)) [37, 38, 39, 40, 41, 42, 43]) ∧
    earlier.lookup 9 = some (0, { readEntry with lastSighting := some (readAt 90 30) }) ∧
    (readAt 90 30).serial ≠ (claim .lp1 31).pass.serial ∧ readEntry.homeRun = 57 ∧
    (claim .lp1 31).pass.pendingEntry ≠ some 0 ∧
    earlier.lookup 8 = some (1, entry 8 (held 75 []) 56 .onLoan) ∧ (56 : RunNo) ≠ 57 :=
  ⟨⟨by decide +kernel, by decide +kernel⟩, by decide +kernel, by decide +kernel, by decide, rfl, by decide,
    by decide +kernel, by decide⟩

/-- `StrayReadingsFollowTheStrayList`: a stray read again 40 mm and 41 mm off, and lists of 510, 511 and 512. -/
theorem witness_strays : (∀ x ∈ counting.pool, x.2.tag ≠ 9) ∧
    ([stray 9 100 31] : List Stray) = [] ++ stray 9 100 31 :: [] ∧ (stray 9 100 31).tag = 9 ∧
    ((stray 9 100 31).lastSerial = 31 ∧ 140 ≤ (stray 9 100 31).lastPosition + counting.config.debounceSpan) ∧
    ¬ 141 ≤ (stray 9 100 31).lastPosition + counting.config.debounceSpan ∧
    (∀ y ∈ List.replicate 510 (stray 8 0 1), y.tag ≠ 9) ∧ (List.replicate 510 (stray 8 0 1)).length < 511 ∧
    (List.replicate 511 (stray 8 0 1)).length = 511 ∧ 512 ≤ (List.replicate 512 (stray 8 0 1)).length := by
  decide +kernel

/-- `LoanSendsItsEntryOut` and `ReturnTakesItsEntryBack`: an entry listed, ON_LOAN, EXPECTED and SHELVED, and a tag that is
not. -/
theorem witness_circulation : (stock .ready).Ready .lp4 ∧ (stock .ready).mode.Opened ∧ (stock .ready).Canonical ∧
    (∀ x ∈ (stock .ready).pool, x.2.tag ≠ 9) ∧ (∃ e, (stock .ready).lookup 0x04A177300C5E9B12 = some (37, e) ∧
      e.status = .expected) ∧
    (∃ e, earlier.lookup 8 = some (1, e) ∧ e.status = .onLoan) ∧ earlier.Ready .lp4 ∧ earlier.Canonical ∧
    (entry 8 (held 75 []) 56 .shelved).status ≠ .onLoan ∧ (entry 8 (held 75 []) 56 .shelved).status ≠ .expected :=
  ⟨by decide +kernel, by decide, ⟨by decide +kernel, by decide +kernel⟩, by decide +kernel, ⟨_, rfl, rfl⟩, ⟨_, rfl, rfl⟩,
    by decide +kernel, ⟨by decide +kernel, by decide +kernel⟩, by decide, by decide⟩

/-- `WindowRequestsWriteTheContext`: bays 39 and 40, directions 1 and 2, wands 3 and 4, with and without a claim. -/
theorem witness_windows : counting.mode.Settled ∧ counting.Ready .lp1 ∧ counting.Ready .lp5 ∧ 40 ≤ (40 : Byte).toNat ∧
    (39 : Byte).toNat = (39 : Bay).val ∧ 2 ≤ (2 : Byte).toNat ∧ (1 : Byte).toNat < 2 ∧
    (counting.wand .lp1).current.claimedRun ≠ none ∧ (1 : Byte) = directionCode .reverse ∧
    (stock .ready).Ready .lp1 ∧ ((stock .ready).wand .lp1).current.claimedRun = none ∧ 4 ≤ (4 : Byte).toNat ∧
    (3 : Byte) = (WandPort.port .lp3).number := by decide +kernel

/-- A part whose wand LP1 has a prepared context, with a stack of a given depth. -/
def prepared (s : State) (r : Option RunNo) (depth : Nat) : State :=
  s.setWand .lp1
    { current := context r, stack := List.replicate depth (context none), slot := some ⟨20, 21, .reverse⟩ }

/-- `DivertSetsTheContextAside`: wand 4; an empty slot; a stack of 3 and of 2; with and without a claim. -/
theorem witness_divert : counting.Ready .lp5 ∧ counting.mode.Opened ∧ 4 ≤ (4 : Byte).toNat ∧
    (1 : Byte) = (WandPort.port .lp1).number ∧ (counting.wand .lp1).slot = none ∧
    ((prepared counting (some 57) 3).Ready .lp5 ∧ 3 ≤ ((prepared counting (some 57) 3).wand .lp1).stack.length) ∧
    ((prepared counting (some 57) 2).Ready .lp5 ∧ ((prepared counting (some 57) 2).wand .lp1).stack.length < 3 ∧
      ((prepared counting (some 57) 2).wand .lp1).slot = some ⟨20, 21, .reverse⟩ ∧
      ((prepared counting (some 57) 2).wand .lp1).current.claimedRun = some 57 ∧
      (prepared counting (some 57) 2).run 57 =
        some (loaded (.claimed (claim .lp1 31)) [37, 38, 39, 40, 41, 42, 43])) ∧
    ((prepared (stock .ready) none 2).wand .lp1).current.claimedRun = none := by decide +kernel

/-- `ResumeRestoresTheContext`: a claim held; an empty stack; a top context with and without a claim. -/
theorem witness_resume : counting.Ready .lp1 ∧ counting.mode.Opened ∧ (counting.wand .lp1).current.claimedRun ≠ none ∧
    ((stock .ready).Ready .lp1 ∧ ((stock .ready).wand .lp1).current.claimedRun = none ∧
      ((stock .ready).wand .lp1).stack = []) ∧
    (diverted.Ready .lp1 ∧ (diverted.wand .lp1).current.claimedRun = none ∧
      (diverted.wand .lp1).stack = context (some 57) :: [] ∧
      diverted.run 57 = some (loaded (.held (claim .lp1 31)) [37, 38, 39, 40, 41, 42, 43])) ∧
    ((prepared (stock .ready) none 3).wand .lp1).stack = context none :: List.replicate 2 (context none) := by
  decide +kernel

/-- `SetMaskReplacesTheMask`: the sets 511 and 512. -/
theorem witness_set_mask : (idle .closed).Ready .lp4 ∧ (idle .closed).mode.Settled ∧ 512 ≤ (512 : U16).toNat ∧
    (511 : U16).toNat < 512 := by decide +kernel

/-- `RunReportsShowTheRuns`: runs loaded and not, indices 6, 7, 15 and 16, and the runs of bay 8. -/
theorem witness_run_reports : counting.mode.Settled ∧ counting.Ready .lp5 ∧ counting.Ready .lp1 ∧
    280 ≤ (280 : U16).toNat ∧ (57 : U16).toNat = (57 : RunNo).val ∧ counting.run 0 = none ∧
    counting.run 57 = some (loaded (.claimed (claim .lp1 31)) [37, 38, 39, 40, 41, 42, 43]) ∧
    16 ≤ (16 : Byte).toNat ∧ ShelfIndex.number ⟨.bayA, 6⟩ = (6 : Byte).toNat ∧ (7 : Byte).toNat = 7 ∧
    (15 : Byte).toNat = 15 ∧ (counting.wand .lp1).current.bayA = 8 ∧ (counting.wand .lp1).current.bayB = 9 ∧
    (counting.run ((counting.wand .lp1).current.resolve ⟨.bayA, 0⟩)) = none ∧
    ([56, 57, 58, 59, 60, 61, 62] : List RunNo).map Fin.val =
      [0, 1, 2, 3, 4, 5, 6].map (fun j : Nat => (8 : Bay).val * 7 + j) := by decide +kernel

/-- `RegisterAndQueueReadings`: ordinals 239 and 240, the last entry and the one after it; strays 511 and 512; a tag listed
and one that is not; a queue with a record and an empty one. -/
theorem witness_readings : (stock .ready).mode.Settled ∧ (stock .ready).Ready .lp5 ∧ (stock .ready).Ready .lp4 ∧
    280 ≤ (280 : U16).toNat ∧ 240 ≤ (240 : Byte).toNat ∧ (239 : Byte).toNat < 240 ∧
    (stock .ready).itemCount 57 ≤ (7 : Byte).toNat ∧
    ([37, 38, 39, 40, 41, 42, 43] : List Nat)[(6 : Byte).toNat]? = some 43 ∧ ((stock .ready).entry 43).isSome = true ∧
    (∀ x ∈ (stock .ready).pool, x.2.tag ≠ 9) ∧ ((stock .ready).lookup 0x04A177300C5E9B12).isSome = true ∧
    512 ≤ (512 : U16).toNat ∧ (511 : U16).toNat < 512 ∧ (stock .ready).strays.length ≤ (511 : U16).toNat ∧
    ([stray 9 10 3] : List Stray)[(0 : U16).toNat]? = some (stray 9 10 3) ∧ (stock .ready).discrepancies = [] ∧
    ([someRecord] : List Discrepancy) = someRecord :: [] := by decide +kernel

/-- `LocateNamesTheRuns`: a malformed key; one within runs 57, 58 and 140; one above run 56 alone; one below all. -/
theorem witness_locate : located.Ready .lp5 ∧ located.mode.Settled ∧ located.Canonical ∧
    readKey (qa 10000 []) = none ∧ readKey (qa 76 [4, 9, 5]) = some (held 76 [4, 9, 5]) ∧
    ([57, 58, 140] : List RunNo).Pairwise (· < ·) ∧
    (located.runsTesting (held 76 [9] (some ⟨90, [9]⟩)) .eq) = [57, 58, 140] ∧
    (located.runsTesting (held 76 [4, 9, 5]) .eq) = [] ∧ (located.runsTesting (held 76 [4, 9, 5]) .gt) = [56] ∧
    (located.runsTesting { held 7 [] with letters := [80, 90] } .gt) = [] :=
  ⟨by decide +kernel, by decide, ⟨by decide +kernel, by decide +kernel⟩, by decide, by decide, by decide, by decide +kernel,
    by decide +kernel, by decide +kernel, by decide +kernel⟩

/-- `CarriedKeysAreReadAsWritten`, `CollationIsOneOrder`, `TravelOrderAndLimits`: keys of one, two and three letters read,
with fields absent and present; keys in order; a fraction and a cutter with room for zeros; limits that are one key. -/
theorem witness_keys : readKey (qa 76 [9] (cutter 68 [3]) 2003 2) = some (held 76 [9] (some ⟨68, [3]⟩) (some 2003) (some 2)) ∧
    readKey { qa 0 [] with letter2 := 0, letter3 := 66 } = some { held 0 [] with letters := [81] } ∧
    readKey { qa 9999 [0, 1, 2, 3, 4, 5] (cutter 65 [9, 9, 9, 9, 9]) 9999 999 with
        letter3 := 90, cutter2 := cutter 90 [0] } =
      some { held 9999 [0, 1, 2, 3, 4, 5] (some ⟨65, [9, 9, 9, 9, 9]⟩) (some 9999) (some 999) with
        letters := [81, 65, 90], cutter2 := some ⟨90, [0]⟩ } ∧
    compareKeys (held 76 []) (held 76 []) ≠ .gt ∧ compareKeys (held 76 []) (held 77 []) ≠ .gt ∧
    (held 76 [9]).fraction.length + 5 ≤ 6 ∧ (⟨68, [3]⟩ : Cutter).digits.length + 4 ≤ 5 ∧
    compareKeys (held 76 []) (held 77 []) = .lt ∧ compareKeys (held 77 []) (held 76 []) = .gt ∧
    compareKeys (held 76 [9]) (held 76 [9, 0]) = .eq := by decide

/-- `CompletionMeasuresTheAccountedShare`: no item, and 240. -/
theorem witness_completion : Shelf.empty.tallies.sum = Shelf.empty.entries.length ∧
    (let x : Shelf := { entries := List.replicate 240 0, tallies := { Tallies.zero with shelved := 1, expected := 239 } };
      x.tallies.sum = x.entries.length ∧ x.entries.length ≤ 240 ∧ x.completion = 4) := by decide +kernel

/-- `RecordsAndNoticesAreQueued`: queues of 254, 255 and 256 records, and of 3 and 4 prompts, masked and open. -/
theorem witness_queues : (List.replicate 254 someRecord).length < 255 ∧ (List.replicate 255 someRecord).length = 255 ∧
    256 ≤ (List.replicate 256 someRecord).length ∧ (1 : BitVec 9).getLsbD NoticeKind.pull.bit = true ∧
    (0 : BitVec 9).getLsbD NoticeKind.pull.bit = false ∧ 4 ≤ (List.replicate 4 (Prompt.gap 1 2)).length ∧
    (List.replicate 3 (Prompt.gap 1 2)).length < 4 := by decide +kernel

/-- `RequestsAndPayloadsAgree`: a request and its payload, read both ways. -/
theorem witness_payloads : (Instr.readEntry .lp5 57 6).request = some (.lp5, .readEntry, [0, 57, 6]) ∧
    (Instr.readEntry .lp5 57 6).wellFormed = true ∧
    decodeRequest .lp5 .readEntry [0, 57, 6] = some (.readEntry .lp5 57 6) := by decide

/-- `CapacitiesAndLinesAreKept`: the part right after reset. -/
theorem witness_capacities : State.reset.Canonical ∧ State.reset.Bounded ∧ State.reset.LinesBusy ∧
    ∃ t, step State.reset = .next t := by
  refine ⟨⟨rfl, rfl⟩, ⟨by decide, ?_, by decide, by decide, by decide, fun w => ?_, fun p => ?_⟩, rfl, _, rfl⟩
  · intro x hx
    cases hx
  · cases w <;> decide
  · cases p <;> exact ⟨by decide, by decide, by decide, by decide⟩

/-- The claims of `counting`: run 57 by LP1. -/
theorem counting_claims (r : RunNo) (w : WandPort) : (∃ x c, counting.run r = some x ∧ x.stage = .claimed c ∧
    c.claimant = w) ↔ r = 57 ∧ w = .lp1 := by
  constructor
  · rintro ⟨x, c, hx, hs, hc⟩
    obtain ⟨rfl, rfl⟩ := stock_run rfl hx
    cases hs
    exact ⟨rfl, hc.symm⟩
  · rintro ⟨rfl, rfl⟩
    exact ⟨_, _, rfl, rfl, rfl⟩

/-- `ClaimsContextsAndModesAgree` and `WandsDoNotDisturbOneAnother`: run 57 claimed by LP1, a step, and a request of
LP0. -/
theorem witness_claims : counting.ClaimsAgree ∧ counting.ModeAgrees ∧ (∃ t, step counting = .next t) ∧
    (Instr.setWindow .lp0 0 1).request = some (WandPort.port .lp0, .setWindow, [0, 1]) ∧ counting.Quiet ∧
    (∃ t, exec (.setWindow .lp0 0 1) counting = .next t) ∧ WandPort.lp1 ≠ .lp0 ∧
    (counting.claim? 57).map (·.claimant) = some .lp1 := by
  refine ⟨⟨fun r w => ?_, fun r w => ?_, fun w => ?_⟩, ⟨rfl, fun _ => .inl rfl⟩, ⟨_, rfl⟩, rfl, by decide +kernel, ⟨_, rfl⟩,
    by decide, by decide +kernel⟩
  · rw [counting_claims]
    cases w <;> simp [counting, stock, State.wand, WandMap.get, WandMap.set, idle, State.reset, ContextStore.default,
      context, eq_comm]
  · constructor
    · rintro ⟨k, hk, -⟩
      cases w <;> cases hk
    · rintro ⟨x, c, hx, hs, -⟩
      obtain ⟨rfl, rfl⟩ := stock_run rfl hx
      cases hs
  · cases w <;> decide

/-- `RegisterAccountIsKept`: a part with an entry and a stray of another tag, and its next step. -/
theorem witness_strays_apart : ({ small with strays := [stray 8 10 3] } : State).StraysApart ∧
    ∃ t, step { small with strays := [stray 8 10 3] } = .next t :=
  ⟨⟨by decide, by decide⟩, _, rfl⟩

/-- Run 57 in a pass that has read its entry, as its pending entry and its anchor. -/
def readPass : State :=
  { midPass fun p => { p with pendingEntry := some 0, anchor := some 0 } with pool := [(0, readEntry)] }

/-- `ClaimsContextsAndModesAgree`: a pass with a pending entry and an anchor, a run that has had passes, and a step. -/
theorem witness_passes : readPass.Canonical ∧ readPass.PassesAgree ∧ readPass.PassCountsAgree ∧
    ∃ t, step readPass = .next t := by
  have hc : ∀ {r k}, readPass.claim? r = some k →
      r = 57 ∧ k.pass = { PassRecord.begin 31 .forward with pendingEntry := some 0, anchor := some 0 } := by
    intro r k h
    obtain ⟨y, hy, hk⟩ := Option.bind_eq_some_iff.mp h
    obtain ⟨rfl, rfl⟩ := stock_run rfl hy
    exact ⟨rfl, by cases hk; rfl⟩
  refine ⟨⟨by decide, by decide⟩, ⟨fun r k i h hp => ?_, fun r k i h hp => ?_⟩,
    ⟨by unfold paramsInRange; decide, fun r x h => ?_, fun r x h hs => ?_, fun r x h hs => ?_, nofun, nofun⟩, _, rfl⟩
  · obtain ⟨rfl, hk⟩ := hc h
    rw [hk] at hp
    cases hp
    exact ⟨readEntry, readAt 90, rfl, rfl, rfl, by rw [hk]; rfl⟩
  · obtain ⟨rfl, hk⟩ := hc h
    rw [hk] at hp
    cases hp
    exact ⟨readEntry, readAt 90, rfl, rfl, rfl⟩
  · obtain ⟨-, rfl⟩ := stock_run rfl h
    decide
  · obtain ⟨-, rfl⟩ := stock_run rfl h
    rcases hs with hs | hs <;> cases hs
  · obtain ⟨-, rfl⟩ := stock_run rfl h
    cases hs

/-- `OnlyTheirCommandsChangeTheControlState`: a command that is no reset, and those that could reset the part, where they
have nothing to take effect. -/
theorem witness_control : ∀ c ∈ [Instr.start .lp5, .resetRelease, .portReset .lp5, .deviceResetEffect,
    .transmitFrameEnd .lp5], leavesThePart c (idle .halted) ∧ ∃ t, exec c (idle .halted) = .next t := by
  simp only [List.forall_mem_cons, List.not_mem_nil, false_implies, implies_true, and_true]
  exact ⟨⟨.inl rfl, _, rfl⟩, ⟨.inr (.inl ⟨rfl, rfl⟩), _, rfl⟩, ⟨.inr (.inr (.inl ⟨rfl, rfl⟩)), _, rfl⟩,
    ⟨.inr (.inr (.inr ⟨.inl rfl, ⟨rfl, rfl⟩, rfl⟩)), _, rfl⟩, .inr (.inr (.inr ⟨.inr rfl, ⟨rfl, rfl⟩, rfl⟩)), _, rfl⟩

end Sys2Proof.Tests
end

section
/-! PROOFS. Chapter 1: the collation as one order, and from it travel order and the between-limits test (R10, R11); and
the completion of a run (R14). -/
namespace Sys2Proof.Machine

/-! ## The comparison is an order (R5 to R9) -/

theorem compareNumbers_eq_compare : compareNumbers = compare :=
  funext₂ fun a b => (Nat.compare_eq_ite_lt a b).symm

theorem compareLetters_eq_compareLex : compareLetters = List.compareLex (Ordering.byKey BitVec.toNat compareNumbers) := by
  funext a b
  induction a generalizing b with
  | nil => cases b <;> rfl
  | cons x xs ih =>
    cases b with
    | nil => rfl
    | cons y ys =>
      rw [List.compareLex_cons_cons, ← ih]
      rfl

/-- An optional field is ordered as the library orders options, the absent one the lowest (R8, R9). -/
theorem compareOptional_eq_compare {α : Type} [Ord α] : compareOptional (α := α) compare = compare := by
  funext x y
  cases x <;> cases y <;> rfl

theorem compareNumbers_transCmp : Std.TransCmp compareNumbers :=
  compareNumbers_eq_compare ▸ inferInstance

theorem compareLetters_transCmp : Std.TransCmp compareLetters :=
  haveI := compareNumbers_transCmp
  compareLetters_eq_compareLex ▸ inferInstance

theorem compareOptional_transCmp {α : Type} {cmp : α → α → Ordering} (h : Std.TransCmp cmp) :
    Std.TransCmp (compareOptional cmp) :=
  letI : Ord α := ⟨cmp⟩
  haveI : Std.TransOrd α := h
  compareOptional_eq_compare (α := α) ▸ inferInstance

/-- Cutters are ordered by letter, then by the value of their digits (R8). -/
theorem compareCutters_transCmp : Std.TransCmp compareCutters :=
  haveI := compareNumbers_transCmp
  inferInstanceAs <| Std.TransCmp <| compareLex
    (Ordering.byKey (fun c : Cutter => c.letter.toNat) compareNumbers)
    (Ordering.byKey (fun c : Cutter => digitValue 5 c.digits) compareNumbers)

/-- The comparison of keys is the lexicographic order of its seven fields: opposite when the keys are exchanged, and
transitive (R5). -/
theorem compareKeys_transCmp : Std.TransCmp compareKeys :=
  haveI := compareNumbers_transCmp
  haveI := compareLetters_transCmp
  haveI := compareOptional_transCmp compareNumbers_transCmp
  haveI := compareOptional_transCmp compareCutters_transCmp
  inferInstanceAs <| Std.TransCmp <|
    compareLex (Ordering.byKey ShelfKey.letters compareLetters) <|
    compareLex (Ordering.byKey ShelfKey.classInteger compareNumbers) <|
    compareLex (Ordering.byKey (fun k : ShelfKey => digitValue 6 k.fraction) compareNumbers) <|
    compareLex (Ordering.byKey ShelfKey.cutter1 (compareOptional compareCutters)) <|
    compareLex (Ordering.byKey ShelfKey.cutter2 (compareOptional compareCutters)) <|
    compareLex (Ordering.byKey ShelfKey.year (compareOptional compareNumbers))
      (Ordering.byKey ShelfKey.volume (compareOptional compareNumbers))

theorem compareKeys_swap (a b : ShelfKey) : compareKeys b a = (compareKeys a b).swap :=
  compareKeys_transCmp.eq_swap

/-- A key below the lower limit is below an upper limit that the lower does not sort after. -/
theorem compareKeys_lt_upper {key lower upper : ShelfKey} (hl : compareKeys lower upper ≠ .gt)
    (h : compareKeys key lower = .lt) : compareKeys key upper = .lt :=
  haveI := compareKeys_transCmp
  Std.TransCmp.lt_of_lt_of_isLE h (Ordering.isLE_iff_ne_gt.mpr hl)

/-- Equal keys compare alike with every key. -/
theorem compareKeys_congr {a b : ShelfKey} (h : compareKeys a b = .eq) (c : ShelfKey) :
    compareKeys a c = compareKeys b c :=
  haveI := compareKeys_transCmp
  Std.TransCmp.congr_left h

/-! ## Travel order (R10) -/

theorem travelCompare_forward (a b : ShelfKey) : travelCompare .forward a b = compareKeys a b := rfl

theorem travelCompare_reverse (a b : ShelfKey) : travelCompare .reverse a b = (compareKeys a b).swap := rfl

theorem travelCompare_reverse_of {a b : ShelfKey} {o : Ordering} (h : compareKeys a b = o) :
    travelCompare .reverse a b = o.swap := by
  rw [travelCompare_reverse, h]

theorem travelCompare_eq_iff {d : Direction} {a b : ShelfKey} : travelCompare d a b = .eq ↔ compareKeys a b = .eq := by
  cases d with
  | forward => rfl
  | reverse => rw [travelCompare_reverse, Ordering.swap_eq_eq]

/-- Exchanging the keys gives the opposite result in either direction. -/
theorem travelCompare_swap (d : Direction) (a b : ShelfKey) : travelCompare d b a = (travelCompare d a b).swap := by
  cases d with
  | forward => exact compareKeys_swap a b
  | reverse => rw [travelCompare_reverse, travelCompare_reverse, compareKeys_swap]

theorem comesBefore_iff {d : Direction} {a b : ShelfKey} : comesBefore d a b = true ↔ travelCompare d a b = .lt := by
  simp [comesBefore]

theorem comesNoLater_iff {d : Direction} {a b : ShelfKey} : comesNoLater d a b = true ↔ travelCompare d a b ≠ .gt := by
  simp [comesNoLater]

theorem comesNoLater_iff_lt_or_eq {d : Direction} {a b : ShelfKey} :
    comesNoLater d a b = true ↔ travelCompare d a b = .lt ∨ travelCompare d a b = .eq := by
  rw [comesNoLater_iff]
  cases travelCompare d a b <;> decide

theorem comesNoLater_reverse_iff {a b : ShelfKey} : comesNoLater .reverse a b = true ↔ compareKeys a b ≠ .lt := by
  rw [comesNoLater_iff, travelCompare_reverse, Ne, Ordering.swap_eq_gt]

/-- Equal keys come no later than one another, whichever way a wand travels. -/
theorem comesNoLater_of_eq {a b : ShelfKey} (h : compareKeys a b = .eq) (d : Direction) :
    comesNoLater d a b = true ∧ comesNoLater d b a = true := by
  have hab : travelCompare d a b = .eq := travelCompare_eq_iff.mpr h
  have hba : travelCompare d b a = .eq := by rw [travelCompare_swap, hab]; rfl
  exact ⟨comesNoLater_iff_lt_or_eq.mpr (.inr hab), comesNoLater_iff_lt_or_eq.mpr (.inr hba)⟩

/-! ## The between-limits test (R11) -/

theorem betweenLimits_lt {key lower upper : ShelfKey} :
    betweenLimits key lower upper = .lt ↔ compareKeys key lower = .lt := by
  unfold betweenLimits
  split_ifs with hl <;> simp [hl]

theorem betweenLimits_eq {key lower upper : ShelfKey} :
    betweenLimits key lower upper = .eq ↔ compareKeys key lower ≠ .lt ∧ compareKeys key upper ≠ .gt := by
  unfold betweenLimits
  split_ifs with hl hu <;> simp [*]

/-- Where the lower limit does not sort after the upper, ABOVE is decided by the upper limit alone. -/
theorem betweenLimits_gt {key lower upper : ShelfKey} (hl : compareKeys lower upper ≠ .gt) :
    betweenLimits key lower upper = .gt ↔ compareKeys key upper = .gt := by
  unfold betweenLimits
  split_ifs with hb hu
  · simp [compareKeys_lt_upper hl hb]
  · simp [hu]
  · simp [hu]

/-- Both limits are inclusive: a key equal to either is WITHIN. -/
theorem betweenLimits_of_eq_limit {key lower upper : ShelfKey} (hl : compareKeys lower upper ≠ .gt)
    (h : compareKeys key lower = .eq ∨ compareKeys key upper = .eq) : betweenLimits key lower upper = .eq := by
  refine betweenLimits_eq.mpr ?_
  rcases h with h | h
  · have hu : compareKeys key upper ≠ .gt := compareKeys_congr h upper ▸ hl
    exact ⟨by simp [h], hu⟩
  · have hb : compareKeys key lower ≠ .lt := fun hb => by simp [compareKeys_lt_upper hl hb] at h
    exact ⟨hb, by simp [h]⟩

/-- Settles O51: the result for REVERSE is the swapped one, and the collation is transitive. -/
theorem travelOrderAndLimits : Obligations.TravelOrderAndLimits := by
  refine ⟨fun a b => ⟨travelCompare_forward a b, travelCompare_reverse_of, travelCompare_reverse_of,
    travelCompare_reverse_of, fun _ => comesBefore_iff, fun _ => comesNoLater_iff_lt_or_eq, comesNoLater_iff,
    comesNoLater_reverse_iff, fun d h => comesNoLater_of_eq h d⟩, fun key lower upper hl => ⟨betweenLimits_lt,
    betweenLimits_gt hl, betweenLimits_eq, ?_, betweenLimits_of_eq_limit hl⟩⟩
  rintro ⟨hbelow, habove⟩
  simp [compareKeys_lt_upper hl hbelow] at habove

/-! ## Completion (R14) -/

theorem completion_of_no_items (expected missing : Nat) : completion 0 expected missing = 1000 := rfl

theorem completion_of_items {items : Nat} (h : items ≠ 0) (expected missing : Nat) :
    completion items expected missing = (items - expected - missing) * 1000 / items := if_neg h

theorem completion_le (items expected missing : Nat) : completion items expected missing ≤ 1000 := by
  by_cases h : items = 0
  · rw [h, completion_of_no_items]
  · rw [completion_of_items h]
    exact Nat.div_le_of_le_mul (by omega)

/-- Completion is full exactly when nothing is EXPECTED or MISSING: the quotient reaches 1000 only where the accounted
number is the item count. -/
theorem completion_eq_full_iff {items expected missing : Nat} (hle : expected + missing ≤ items) :
    completion items expected missing = 1000 ↔ expected = 0 ∧ missing = 0 := by
  rcases Nat.eq_zero_or_pos items with rfl | hpos
  · rw [completion_of_no_items]
    omega
  · have hfull : 1000 ≤ (items - expected - missing) * 1000 / items ↔
        1000 * items ≤ (items - expected - missing) * 1000 := Nat.le_div_iff_mul_le hpos
    have hmax := completion_le items expected missing
    rw [completion_of_items hpos.ne'] at hmax ⊢
    omega

/-- Completion is 0 exactly when there are items and all are EXPECTED or MISSING: of at most 1000 items, one accounted
for is already a whole part in a thousand. -/
theorem completion_eq_zero_iff {items expected missing : Nat} (hle : expected + missing ≤ items) (hmax : items ≤ 1000) :
    completion items expected missing = 0 ↔ items ≠ 0 ∧ expected + missing = items := by
  by_cases h : items = 0
  · simp [h, completion_of_no_items]
  · rw [completion_of_items h, Nat.div_eq_zero_iff]
    omega

/-- Settles O52: the tallies' sum bounds EXPECTED and MISSING by the item count, and the three facts about the quotient
follow. -/
theorem completionMeasuresTheAccountedShare : Obligations.CompletionMeasuresTheAccountedShare := by
  intro x hsum hmax
  have haccounted : x.entries.length - x.tallies.expected - x.tallies.missing =
      x.tallies.shelved + x.tallies.displaced + x.tallies.onLoan + x.tallies.returned := by
    rw [← hsum, Tallies.sum]
    omega
  have hle : x.tallies.expected + x.tallies.missing ≤ x.entries.length := by
    rw [← hsum, Tallies.sum]
    omega
  exact ⟨fun h => by rw [Shelf.completion, h, completion_of_no_items], fun h => completion_of_items h _ _, haccounted,
    completion_le _ _ _, completion_eq_full_iff hle, completion_eq_zero_iff hle (by omega)⟩

end Sys2Proof.Machine
end

section
/-! PROOFS. Chapter 3: what an abandoned pass comes to (R58). What an offer does to the queue, the
ports and the rest is said once, and the abandonment is read part by part off its equation. -/
namespace Sys2Proof.Machine

/-! ## An offer to the Discrepancy Queue (R141) -/

/-- A record offered while fewer than 256 stand in the queue joins it, and none is counted as lost. -/
theorem State.offer_joins {s : State} (d : Discrepancy) (h : s.discrepancies.length < 256) :
    (s.offer d).discrepancies = s.discrepancies ++ [d] ∧ (s.offer d).overflow = s.overflow := by
  rcases Nat.lt_succ_iff_lt_or_eq.mp h with hroom | hlast
  · rw [State.offer_room d hroom]
    exact ⟨rfl, rfl⟩
  · rw [State.offer_fills d hlast]
    exact ⟨rfl, rfl⟩

/-- A record offered to a full queue is dropped and counted. -/
theorem State.offer_drops {s : State} (d : Discrepancy) (h : 256 ≤ s.discrepancies.length) :
    (s.offer d).discrepancies = s.discrepancies ∧
      (s.offer d).overflow = saturatingSucc Config.counterMax s.overflow := by
  rw [State.offer_full d h]
  exact ⟨rfl, rfl⟩

/-- QUEUE_FULL is pending on LP5 after an offer when it was before or when the record is the 256th; nothing else of any
port changes. -/
theorem State.offer_ports (s : State) (d : Discrepancy) :
    (s.offer d).ports = s.ports.set { s.port .lp5 with held := { (s.port .lp5).held with
      queueFull := (s.port .lp5).held.queueFull || s.discrepancies.length == 255 } } .lp5 := by
  by_cases hlast : s.discrepancies.length = 255
  · rw [State.offer_fills d hlast, hlast, beq_self_eq_true, Bool.or_true]
    rfl
  · have hsame : (s.offer d).ports = s.ports := by
      rcases Nat.lt_or_gt_of_ne hlast with hroom | hfull
      · rw [State.offer_room d hroom]
      · rw [State.offer_full d hfull]
    rw [hsame, beq_false_of_ne hlast, Bool.or_false]
    exact (PortMap.set_get s.ports .lp5).symm

/-- An offer writes the queue, the overflow count and the ports, and leaves every other field. -/
theorem State.offer_frame (s : State) (d : Discrepancy) :
    s.offer d = { s with discrepancies := (s.offer d).discrepancies, overflow := (s.offer d).overflow,
                         ports := (s.offer d).ports } := by
  unfold State.offer
  split_ifs <;> rfl

/-! ## The abandonment of a pass (R58) -/

/-- The run that an abandoned pass leaves: its claim dropped and its last pass written. -/
def LoadedRun.abandoned (x : LoadedRun) (k : Claim) (passLimit : Nat) (y : Reason) : LoadedRun :=
  { x with stage := stageAfterPass x.passCount passLimit, lastPass := .abandoned y k.claimant k.pass.serial }

/-- The record that an abandoned pass offers. -/
def Claim.abandonRecord (k : Claim) (time : U32) (r : RunNo) (y : Reason) : Discrepancy :=
  { kind := .passAbandoned, time := time, run := some r, port := some k.claimant.port, reason := some y }

section
variable {s : State} {r : RunNo} {x : LoadedRun} {k : Claim} (hr : s.run r = some x) (hk : x.stage.claim? = some k)
  (y : Reason)
include hr hk

/-- An abandonment writes the run, then the claimant's context store, then offers the record and raises PASS_DONE. -/
theorem State.abandon_eq :
    s.abandon r y = (((s.setRun r (x.abandoned k s.config.passLimit y)).setWand k.claimant
      ((s.wand k.claimant).release r)).offer (k.abandonRecord s.clock r y)).notify .lp5 (.passDone r .abandoned) := by
  unfold State.abandon
  rw [hr]
  dsimp only
  rw [hk]
  rfl

theorem State.run_abandon (q : RunNo) :
    (s.abandon r y).run q = if q = r then some (x.abandoned k s.config.passLimit y) else s.run q := by
  rw [← State.run_setRun, State.run, State.run, State.abandon_eq hr hk]
  simp

theorem State.wand_abandon (v : WandPort) :
    (s.abandon r y).wand v = if v = k.claimant then (s.wand k.claimant).release r else s.wand v := by
  rw [← State.wand_setWand, State.wand, State.wand, State.abandon_eq hr hk, State.notify_wands, State.offer_wands]
  rfl

theorem State.abandon_joins (h : s.discrepancies.length < 256) :
    (s.abandon r y).discrepancies = s.discrepancies ++ [k.abandonRecord s.clock r y] ∧
      (s.abandon r y).overflow = s.overflow := by
  rw [State.abandon_eq hr hk]
  exact State.offer_joins _ h

theorem State.abandon_drops (h : 256 ≤ s.discrepancies.length) :
    (s.abandon r y).discrepancies = s.discrepancies ∧
      (s.abandon r y).overflow = saturatingSucc Config.counterMax s.overflow := by
  rw [State.abandon_eq hr hk]
  exact State.offer_drops _ h

/-- Both notices are held notices of LP5, PASS_DONE always and QUEUE_FULL with the 256th record. -/
theorem State.abandon_ports :
    (s.abandon r y).ports = s.ports.set { s.port .lp5 with held := { (s.port .lp5).held with
      passDone := some (r, .abandoned)
      queueFull := (s.port .lp5).held.queueFull || s.discrepancies.length == 255 } } .lp5 := by
  rw [State.abandon_eq hr hk, State.notify, State.updatePort]
  dsimp only
  rw [State.offer_ports, PortMap.set_set, PortMap.get_set_self]
  rfl

/-- An abandonment writes the runs, the context stores, the queue with its overflow count, and the ports. -/
theorem State.abandon_frame :
    s.abandon r y = { s with runs := (s.abandon r y).runs, wands := (s.abandon r y).wands,
                             discrepancies := (s.abandon r y).discrepancies, overflow := (s.abandon r y).overflow,
                             ports := (s.abandon r y).ports } := by
  rw [State.abandon_eq hr hk, State.offer_frame]
  rfl

end

/-- Settles O32: each part of the state is read off the abandonment's equation, and the frame is what no update of it
writes. -/
theorem abandonedPassEndsWithoutJudgement : Obligations.AbandonedPassEndsWithoutJudgement := by
  rintro r y x k s t hr hstage rfl record lost
  have hk : x.stage.claim? = some k := Stage.claim_some.mpr hstage
  have hports := State.abandon_ports hr hk y
  have hheld : ((s.abandon r y).port .lp5).held = { (s.port .lp5).held with
      passDone := some (r, .abandoned)
      queueFull := (s.port .lp5).held.queueFull || s.discrepancies.length == 255 } := by
    rw [State.port, hports, PortMap.get_set_self]
  refine ⟨(State.run_abandon hr hk y r).trans (if_pos rfl),
    fun q hq => (State.run_abandon hr hk y q).trans (if_neg hq),
    (State.wand_abandon hr hk y k.claimant).trans (if_pos rfl),
    fun v hv => (State.wand_abandon hr hk y v).trans (if_neg hv),
    State.abandon_joins hr hk y, State.abandon_drops hr hk y, hheld, ?_⟩
  rw [hheld]
  refine (State.abandon_frame hr hk y).trans ?_
  rw [hports]
  rfl

end Sys2Proof.Machine
end

section
/-! PROOFS. Chapter 5: the arrival of a home item in the order check (R91 to R94). The judgement that the arrival brings
the pending entry is said once, in travel order, and the arrival is one equation per outcome. -/
namespace Sys2Proof.Machine

/-! ## The judgement that an arrival brings (R93, R94) -/

theorem comesBefore_eq_decide (d : Direction) (a b : ShelfKey) :
    comesBefore d a b = decide (travelCompare d a b = .lt) :=
  Bool.eq_iff_iff.mpr (comesBefore_iff.trans decide_eq_true_iff.symm)

/-- A comes no later than B where B does not come before A. -/
theorem comesNoLater_eq_not_comesBefore (d : Direction) (a b : ShelfKey) :
    comesNoLater d a b = !comesBefore d b a := by
  rw [comesBefore, travelCompare_swap, comesNoLater]
  cases travelCompare d a b <;> rfl

/-- With no anchor, the pending entry is AHEAD just when the arriving item comes before it (R94). -/
theorem arrivalJudgement_no_anchor (d : Direction) (pendingKey arriving : ShelfKey) :
    arrivalJudgement d none pendingKey arriving =
      if travelCompare d arriving pendingKey = .lt then .ahead else .inOrder := by
  simp only [arrivalJudgement, comesNoLater_eq_not_comesBefore, comesBefore_eq_decide]
  by_cases h : travelCompare d arriving pendingKey = .lt <;> simp [h]

/-- With an anchor, the pending entry is BEHIND when it comes before the anchor (R93); else it is AHEAD just when the
arriving item comes before it and not before the anchor (R94). -/
theorem arrivalJudgement_anchor (d : Direction) (anchor pendingKey arriving : ShelfKey) :
    arrivalJudgement d (some anchor) pendingKey arriving =
      if travelCompare d pendingKey anchor = .lt then .behind
      else if travelCompare d arriving pendingKey = .lt ∧ ¬ travelCompare d arriving anchor = .lt then .ahead
      else .inOrder := by
  simp only [arrivalJudgement, comesNoLater_eq_not_comesBefore, comesBefore_eq_decide]
  by_cases hlate : travelCompare d arriving pendingKey = .lt
  · by_cases hanchor : travelCompare d arriving anchor = .lt <;> simp [hlate, hanchor]
  · simp [hlate]

theorem State.anchorKey_none (s : State) {p : PassRecord} (h : p.anchor = none) : s.anchorKey p = none := by
  simp [State.anchorKey, h]

theorem State.anchorKey_some {s : State} {p : PassRecord} {a : Nat} {f : Entry} (h : p.anchor = some a)
    (hf : s.entry a = some f) : s.anchorKey p = some f.key := by
  simp [State.anchorKey, h, hf]

/-! ## The arrival (R91, R92) -/

/-- With no pending entry nothing is judged, and the arriving item takes the pending place (R92). -/
theorem State.arrive_no_pending (s : State) (r : RunNo) (w : WandPort) {p : PassRecord} (i : Nat) (key : ShelfKey)
    (h : p.pendingEntry = none) :
    s.arrive r w p i key = s.updatePass r fun p => { p with pendingEntry := some i } := by
  simp only [State.arrive, h]

section
variable {s : State} {p : PassRecord} {j : Nat} {e : Entry} (hj : p.pendingEntry = some j) (he : s.entry j = some e)
  (r : RunNo) (w : WandPort) (i : Nat) {key : ShelfKey}
include hj he

/-- A pending entry judged IN_ORDER becomes the anchor, and the arriving item takes the pending place. -/
theorem State.arrive_accepts (h : arrivalJudgement p.direction (s.anchorKey p) e.key key = .inOrder) :
    s.arrive r w p i key = (s.judge r w j e .inOrder).updatePass r fun p =>
      { p with anchor := some j, pendingEntry := some i } := by
  simp only [State.arrive, hj, he, h, if_true, State.updatePass_updatePass]

/-- A pending entry judged otherwise leaves the anchor as it is, and the arriving item takes the pending place. -/
theorem State.arrive_rejects {g : Judgement} (h : arrivalJudgement p.direction (s.anchorKey p) e.key key = g)
    (hg : g ≠ .inOrder) :
    s.arrive r w p i key = (s.judge r w j e g).updatePass r fun p => { p with pendingEntry := some i } := by
  simp only [State.arrive, hj, he, h, if_neg hg]

end

/-- Settles O35: each clause is the arrival's equation for its outcome, which the judgement of the pending entry
gives without an anchor and with one. -/
theorem arrivingItemJudgesThePendingOne : Obligations.ArrivingItemJudgesThePendingOne := by
  intro r w i key y k s _ _ enter earlier
  refine ⟨State.arrive_no_pending s r w i key, ?_⟩
  intro j e hj he accept reject
  have accepts (h : arrivalJudgement k.pass.direction (s.anchorKey k.pass) e.key key = .inOrder) : accept :=
    State.arrive_accepts hj he r w i h
  have rejects {g : Judgement} (h : arrivalJudgement k.pass.direction (s.anchorKey k.pass) e.key key = g)
      (hg : g ≠ .inOrder) : reject g := State.arrive_rejects hj he r w i h hg
  constructor
  · intro ha
    rw [State.anchorKey_none s ha, arrivalJudgement_no_anchor] at accepts rejects
    exact ⟨fun hkey => accepts (if_neg hkey), fun hkey => rejects (if_pos hkey) (by decide)⟩
  · intro a f ha hf
    rw [State.anchorKey_some ha hf, arrivalJudgement_anchor] at accepts rejects
    refine ⟨fun hbehind => rejects (if_pos hbehind) (by decide), fun hbehind => ?_⟩
    rw [if_neg hbehind] at accepts rejects
    exact ⟨fun hkey => accepts (if_neg fun h => hkey h.1), fun _ hanchor => accepts (if_neg fun h => h.2 hanchor),
      fun hkey hanchor => rejects (if_pos ⟨hkey, hanchor⟩) (by decide)⟩

end Sys2Proof.Machine
end

section
/-! PROOFS. What a command can make of the part, said once: the serving of a request and the effect of an event by
command, `exec` through them, and the changes that an admitted request can make, one constructor for each. The
invariants and the frames of later sections are cases on these. -/
namespace Sys2Proof.Machine

/-! ## Commands by their meanings -/

/-- The serving of a request, by its own rule; an event is not served. -/
def serving : Instr → State → Served
  | .configure _ a b c d e => serveConfigure a b c d e
  | .start _ => serveStart
  | .pause _ => servePause
  | .continueCount _ => serveContinue
  | .closeSection _ => serveCloseSection
  | .wipe _ => serveWipe
  | .deviceReset _ => serveDeviceReset
  | .status _ => serveStatus
  | .totals _ => serveTotals
  | .loadRun _ run lower upper length => serveLoadRun run lower upper length
  | .loadItem _ run tag key initial => serveLoadItem run tag key initial
  | .loadDone _ run => serveLoadDone run
  | .unloadRun _ run => serveUnloadRun run
  | .closeRun _ run => serveCloseRun run
  | .resetPasses _ run => serveResetPasses run
  | .forceRelease _ run => serveForceRelease run
  | .readRun _ run => serveReadRun run
  | .readEntry _ run ordinal => serveReadEntry run ordinal
  | .readStray _ ordinal => serveReadStray ordinal
  | .readDiscrepancy _ => serveReadDiscrepancy
  | .locate _ key => serveLocate key
  | .setDivert _ wand a b d => serveSetDivert wand a b d
  | .divert _ wand => serveDivert wand
  | .setWindow p a b => asWand p (serveSetWindow a b)
  | .setDirection p d => asWand p (serveSetDirection d)
  | .claim p index => asWand p (serveClaim index)
  | .claimNext p => asWand p serveClaimNext
  | .sight p sightings => asWand p (serveSight sightings)
  | .runEnd p run => asWand p (serveRunEnd run)
  | .runAbandon p run => asWand p (serveRunAbandon run)
  | .resume p => asWand p serveResume
  | .queryRun p index => asWand p (serveQueryRun index)
  | .queryItem _ tag => serveQueryItem tag
  | .setMask p kinds => serveSetMask p kinds
  | .loan _ tag => serveLoan tag
  | .returnItem _ tag => serveReturn tag
  | _ => refuse .none

/-- What an event makes of the part once it takes place; a request, and the three commands that set the reset, are none. -/
def effect : Instr → Option (State → State)
  | .closeCompletion => some State.completeClose
  | .wipeCompletion => some State.completeWipe
  | .deviceResetEffect => some State.takeDeviceReset
  | .sectionClockAdvance => some State.advance
  | .claimExpiry => some id
  | .frameReceived p bytes => some fun s => s.receiveFrame p bytes
  | .frameRejected p => some fun s => s.rejectFrame p
  | .frameTimeout p => some fun s => s.updatePort p LinkPort.timeOut
  | .transmitFrameEnd p => some fun s => s.transmitEnd p
  | .portReset p => some fun s => s.takeBreak p
  | .startByte p => some fun s => s.receive p [0xA5#8]
  | .frameLengthInvalid p length => some fun s => s.receive p [length]
  | .breakEnd p => some fun s => s.setBreak p false
  | .receiveEnable => some State.enableReceive
  | _ => none

/-- The power-on values with other pins. -/
def State.poweredOn (s : State) (pins : Pins) : State := { s.powerOnValues false with pins := pins }

/-- What a command leaves: a request's or an event's handling, the level of one receive line while RST_N is low, the
power-on values, or the part as it was. -/
inductive Taken (c : Instr) (s : State) : State → Prop
  | request {p k payload} (hc : c.request = some (p, k, payload)) : Taken c s (request c (serving c) s)
  | event {f} (hc : effect c = some f) : Taken c s (event f s)
  | level (p low) (hc : c = .portReset p ∧ low = true ∨ c = .breakEnd p ∧ low = false)
      (hlow : s.pins.resetLow = true) : Taken c s (s.setBreak p low)
  | reset (pins) (hc : c = .powerOn ∨ c = .externalReset ∨ c = .resetRelease ∧ s.pins.resetLow = true) : Taken c s (s.poweredOn pins)
  | release (hc : c = .resetRelease) (hlow : s.pins.resetLow = false) : Taken c s s

theorem exec_request {c : Instr} {p : Port} {k : RequestKind} {payload : List Byte}
    (hc : c.request = some (p, k, payload)) (s : State) : exec c s = .next (request c (serving c) s) := by
  cases c <;> cases hc <;> rfl

/-- An event takes place in its turn. PORT_RESET and BREAK_END move the level of their line while RST_N is low. -/
theorem exec_event {c : Instr} {f : State → State} (hc : effect c = some f) {s : State}
    (hs : s.pins.resetLow = false ∨ ∀ p, c ≠ .portReset p ∧ c ≠ .breakEnd p) : exec c s = .next (event f s) := by
  cases c
  case portReset p =>
    cases hc
    have hl : s.pins.resetLow = false := hs.resolve_right fun h => (h p).1 rfl
    simp only [exec, execPortReset, hl, Bool.false_eq_true, if_false]
  case breakEnd p =>
    cases hc
    have hl : s.pins.resetLow = false := hs.resolve_right fun h => (h p).2 rfl
    simp only [exec, execBreakEnd, hl, Bool.false_eq_true, if_false]
  all_goals cases hc <;> rfl

/-- Every command leaves one of these. -/
theorem taken_of_exec {c : Instr} {s t : State} (h : exec c s = .next t) : Taken c s t := by
  have request {p k payload} (hc : c.request = some (p, k, payload)) : Taken c s t := by
    rw [exec_request hc] at h
    cases h
    exact .request hc
  have event {f} (hc : effect c = some f) (hs : s.pins.resetLow = false ∨ ∀ p, c ≠ .portReset p ∧ c ≠ .breakEnd p) :
      Taken c s t := by
    rw [exec_event hc hs] at h
    cases h
    exact .event hc
  cases c
  case portReset p =>
    cases hl : s.pins.resetLow
    · exact event rfl (.inl hl)
    · simp only [exec, execPortReset, hl, if_true] at h
      cases h
      exact .level p true (.inl ⟨rfl, rfl⟩) hl
  case breakEnd p =>
    cases hl : s.pins.resetLow
    · exact event rfl (.inl hl)
    · simp only [exec, execBreakEnd, hl, if_true] at h
      cases h
      exact .level p false (.inr ⟨rfl, rfl⟩) hl
  case powerOn => cases h; exact .reset s.pins (.inl rfl)
  case externalReset => cases h; exact .reset ⟨true, s.pins.breakLow⟩ (.inr (.inl rfl))
  case resetRelease =>
    cases hl : s.pins.resetLow
    · simp only [exec, execResetRelease, hl, Bool.false_eq_true, if_false] at h
      cases h
      exact .release rfl hl
    · simp only [exec, execResetRelease, hl, if_true] at h
      cases h
      exact .reset ⟨false, s.pins.breakLow⟩ (.inr (.inr ⟨rfl, hl⟩))
  all_goals first | exact request rfl | exact event rfl (.inr fun _ => ⟨nofun, nofun⟩)

/-! ## What an admitted request changes -/

theorem asWand_port (w : WandPort) (serve : WandPort → State → Served) (s : State) :
    asWand w.port serve s = serve w s := by cases w <;> rfl

theorem wand_port (w : WandPort) : w.port.wand? = some w := by cases w <;> rfl

theorem role_port (w : WandPort) : w.port.role = .wand := by cases w <;> rfl

/-- A wand port's number and its port name each other. -/
theorem port_of_wand {p : Port} {w : WandPort} (h : p.wand? = some w) : p = w.port := by
  cases p <;> cases h <;> rfl

/-- A port whose role is wand is a wand port. -/
theorem wand_of_role {p : Port} (h : p.role = .wand) : ∃ w : WandPort, p = w.port := by
  cases p
  case lp0 => exact ⟨.lp0, rfl⟩
  case lp1 => exact ⟨.lp1, rfl⟩
  case lp2 => exact ⟨.lp2, rfl⟩
  case lp3 => exact ⟨.lp3, rfl⟩
  all_goals cases h

/-- The part as WIPE leaves it. -/
def State.wiped (s : State) : State :=
  { s.enterMode .wiping with operation := some .wipe, pool := [], runs := [], passSerial := 0, strays := [],
                             discrepancies := [], overflow := 0, wands := s.wands.map ContextStore.wipe, clock := 0 }

/-- The part as an accepted LOAD_ITEM leaves it: the stray of the tag leaves the list, the entry joins the pool. -/
def State.withItem (s : State) (r : RunNo) (tag : Tag) (key : ShelfKey) (st : Status) : State :=
  { s with strays := s.strays.filter fun y => y.tag ≠ tag }.addEntry r (Entry.loaded tag key r st (s.strayOf tag))

/-- The part as an accepted DIVERT leaves it. -/
def State.diverted (s : State) (v : WandPort) (context : Prepared) : State :=
  ((s.setWand v { current := context.context, stack := (s.wand v).current :: (s.wand v).stack, slot := none }).holdRun
    (s.wand v).current.claimedRun).notify v.port (.diverted context)

/-- The part as an accepted RESUME leaves it. -/
def State.resumed (s : State) (w : WandPort) (top : Context) (rest : List Context) : State :=
  (s.setWand w { s.wand w with current := top, stack := rest }).resumeRun top.claimedRun

/-- The part as a RUN_END of a claim leaves it, with the outcome and stage that the judged pass has. -/
def State.passEnded (s : State) (r : RunNo) (w : WandPort) (k : Claim) (g : Stage) (last : LastPass)
    (outcome : PassOutcome) : State :=
  (((s.judgePassEnd r w k.pass).updateRun r fun x => { x with stage := g, lastPass := last }).updateContext w fun c =>
    { c with claimedRun := none }).notify .lp5 (.passDone r outcome)

/-- The part as a LOAN of an entry leaves it. -/
def State.lent (s : State) (i : Nat) (e : Entry) : State :=
  let t := s.withdraw i
  let t := if (s.pendingRun i).isSome || seenStatus e.status then t.flagSeenBeforeLoan i else t
  if e.status = .onLoan then (t.flagLoanConflict i).offer (circulationRecord t .loanConflict i e)
  else t.setStatus i .onLoan

/-- The part as a RETURN of an entry leaves it. -/
def State.takenBack (s : State) (i : Nat) (e : Entry) : State :=
  let t := if e.status = .expected then s.flagLoanConflict i else s
  let t := if e.status = .onLoan ∨ e.status = .expected then t.setStatus i .returned else t
  if e.status = .onLoan then t else t.offer (circulationRecord t .returnConflict i e)

/-- What an admitted request can make of the part, with what its tests have found. -/
inductive Change (s : State) : Instr → State → Prop
  | none (c) : Change s c s
  | configure (p a b c d e) (params : Config.Params) (hp : paramsInRange params) (hm : s.mode = .halted) :
      Change s (.configure p a b c d e) { s with config := params }
  | enter (c m) (hm : modeChange c s.mode m) (hopen : m = .counting ∨ m = .paused) : Change s c (s.enterMode m)
  | close (p) (hm : s.mode = .counting ∨ s.mode = .paused) (hfree : ∀ x ∈ s.runs, x.2.stage.claim? = none) :
      Change s (.closeSection p) { s.enterMode .closing with operation := some .close }
  | wipe (p) (hm : s.mode = .halted ∨ s.mode = .closed) : Change s (.wipe p) s.wiped
  | deviceReset (p) : Change s (.deviceReset p) { s with resetScheduled := true }
  | loadRun (c r lo hi length) (hr : s.run r = none) (hm : s.mode.Loadable) :
      Change s c (s.setRun r (LoadedRun.opened lo hi length))
  | loadItem (c r x tag key st) (hr : s.run r = some x) (hx : x.stage = .loading)
      (hcheck : s.loadCheck x tag key = .none) : Change s c (s.withItem r tag key st)
  | loadDone (c r x) (hr : s.run r = some x) (hx : x.stage = .loading) :
      Change s c (s.setRun r { x with stage := .ready })
  | unload (c r x) (hr : s.run r = some x) (hx : x.stage = .loading ∨ x.stage = .ready) : Change s c (s.unload r)
  | closeRun (c r x) (hr : s.run r = some x) (hx : x.stage.claim? = none) :
      Change s c (s.setRun r { x with stage := .closed })
  | resetPasses (c r x) (hr : s.run r = some x) (hx : x.stage.claim? = none) :
      Change s c (s.setRun r { x with stage := .rescan, passCount := 0 })
  | forceRelease (p run r) : Change s (.forceRelease p run) (s.releaseClaim r .forced)
  | readRecord (c d rest) (hd : s.discrepancies = d :: rest) : Change s c { s with discrepancies := rest }
  | setDivert (p w a b d v context) : Change s (.setDivert p w a b d) (s.setWand v { s.wand v with slot := some context })
  | divert (p w v context) (hv : (s.wand v).stack.length < Config.stackCapacity) :
      Change s (.divert p w) (s.diverted v context)
  | window (c p k payload w) (f : Context → Context) (hc : c.request = some (p, k, payload)) (hp : p.wand? = some w)
      (hf : ∀ x, (f x).claimedRun = x.claimedRun) : Change s c (s.updateContext w f)
  | claim (c p w i r x) (hc : (∃ index, c = .claim p index) ∨ c = .claimNext p) (hp : p.wand? = some w)
      (hm : s.mode = .counting) (hr : s.run r = some x) (hx : x.stage = .ready ∨ x.stage = .rescan)
      (hfree : (s.wand w).current.claimedRun = .none) (hserial : s.passSerial.toNat ≠ Config.serialMax) :
      Change s c (s.beginPass w i r x)
  | sight (p xs w r) (hp : p.wand? = some w) (hr : (s.wand w).current.claimedRun = some r) :
      Change s (.sight p xs) (s.sightAll r w xs).2
  | runEnd (p run w r x k g last outcome) (hp : p.wand? = some w) (hr : s.run r = some x) (hx : x.stage = .claimed k)
      (hk : k.claimant = w) (hg : g = .checked ∨ g = stageAfterPass x.passCount s.config.passLimit) :
      Change s (.runEnd p run) (s.passEnded r w k g last outcome)
  | runAbandon (p run w r x k) (hp : p.wand? = some w) (hr : s.run r = some x) (hx : x.stage = .claimed k)
      (hk : k.claimant = w) : Change s (.runAbandon p run) (s.abandon r .runAbandon)
  | resume (p w top rest) (hp : p.wand? = some w) (hfree : (s.wand w).current.claimedRun = .none)
      (hstack : (s.wand w).stack = top :: rest) : Change s (.resume p) (s.resumed w top rest)
  | setMask (p kinds mask) : Change s (.setMask p kinds) (s.updatePort p fun q => { q with mask := mask })
  | loan (p tag i e) (hl : s.lookup tag = some (i, e)) : Change s (.loan p tag) (s.lent i e)
  | takeBack (p tag i e) (hl : s.lookup tag = some (i, e)) : Change s (.returnItem p tag) (s.takenBack i e)

/-- Of these, what an admitted request of the wand role makes for its wand. -/
inductive WandChange (s : State) (w : WandPort) : Instr → State → Prop
  | none (c) : WandChange s w c s
  | window (c k payload) (f : Context → Context) (hc : c.request = some (w.port, k, payload))
      (hf : ∀ x, (f x).claimedRun = x.claimedRun) : WandChange s w c (s.updateContext w f)
  | claim (c i r x) (hc : (∃ index, c = .claim w.port index) ∨ c = .claimNext w.port) (hm : s.mode = .counting)
      (hr : s.run r = some x) (hx : x.stage = .ready ∨ x.stage = .rescan) (hfree : (s.wand w).current.claimedRun = .none)
      (hserial : s.passSerial.toNat ≠ Config.serialMax) : WandChange s w c (s.beginPass w i r x)
  | sight (xs r) (hr : (s.wand w).current.claimedRun = some r) : WandChange s w (.sight w.port xs) (s.sightAll r w xs).2
  | runEnd (run r x k g last outcome) (hr : s.run r = some x) (hx : x.stage = .claimed k) (hk : k.claimant = w)
      (hg : g = .checked ∨ g = stageAfterPass x.passCount s.config.passLimit) :
      WandChange s w (.runEnd w.port run) (s.passEnded r w k g last outcome)
  | runAbandon (run r x k) (hr : s.run r = some x) (hx : x.stage = .claimed k) (hk : k.claimant = w) :
      WandChange s w (.runAbandon w.port run) (s.abandon r .runAbandon)
  | resume (top rest) (hfree : (s.wand w).current.claimedRun = .none) (hstack : (s.wand w).stack = top :: rest) :
      WandChange s w (.resume w.port) (s.resumed w top rest)

theorem WandChange.change {s t : State} {w : WandPort} {c : Instr} (h : WandChange s w c t) : Change s c t := by
  cases h with
  | none c => exact .none _
  | window c k payload f hc hf => exact .window _ _ k payload w f hc (wand_port w) hf
  | claim c i r x hc hm hr hx hfree hserial => exact .claim _ _ w i r x hc (wand_port w) hm hr hx hfree hserial
  | sight xs r hr => exact .sight _ xs w r (wand_port w) hr
  | runEnd run r x k g last outcome hr hx hk hg =>
    exact .runEnd _ run w r x k g last outcome (wand_port w) hr hx hk hg
  | runAbandon run r x k hr hx hk => exact .runAbandon _ run w r x k (wand_port w) hr hx hk
  | resume top rest hfree hstack => exact .resume _ w top rest (wand_port w) hfree hstack

end Sys2Proof.Machine
end

section
/-! PROOFS. Every admitted request makes one of the changes of `Change`: the inversion of each serving, and their
gathering. -/
namespace Sys2Proof.Machine

/-! ## Mode tests (R152, R160) -/

theorem modeAmong_none {a b c d : Bool} {m : Mode} (h : modeAmong a b c d m = none) :
    a = true ∧ m = .halted ∨ b = true ∧ m = .counting ∨ c = true ∧ m = .paused ∨ d = true ∧ m = .closed := by
  cases m <;> simp_all [modeAmong]

theorem modeAmong_settled {m : Mode} (h : m.Settled) : modeAmong true true true true m = none := by
  rcases h with rfl | rfl | rfl | rfl <;> rfl

theorem modeAmong_loadable {m : Mode} (h : m.Loadable) (d : Bool) : modeAmong true true true d m = none := by
  rcases h with rfl | rfl | rfl <;> rfl

theorem modeAmong_opened {m : Mode} (h : m.Opened) (a d : Bool) : modeAmong a true true d m = none := by
  rcases h with rfl | rfl <;> rfl

theorem loadable_of_modeAmong {m : Mode} (h : modeAmong true true true false m = none) : m.Loadable := by
  simpa using modeAmong_none h

/-! ## Requests that only read -/

section
variable (s : State)

theorem serveReadRun_state (run : U16) : (serveReadRun run s).state = s := by
  unfold serveReadRun
  split <;> rfl

theorem serveReadEntry_state (run : U16) (ordinal : Byte) : (serveReadEntry run ordinal s).state = s := by
  unfold serveReadEntry
  split
  · rfl
  · split
    · rfl
    · dsimp only
      split <;> rfl

theorem serveReadStray_state (ordinal : U16) : (serveReadStray ordinal s).state = s := by
  unfold serveReadStray
  split
  · rfl
  · split <;> rfl

theorem serveLocate_state (key : CarriedKey) : (serveLocate key s).state = s := by
  unfold serveLocate
  split <;> rfl

theorem serveQueryRun_state (index : Byte) (w : WandPort) : (serveQueryRun index w s).state = s := by
  unfold serveQueryRun
  split <;> rfl

theorem serveQueryItem_state (tag : Tag) : (serveQueryItem tag s).state = s := by
  unfold serveQueryItem
  split <;> rfl

end

/-! ## Stages and ranges -/

theorem Stage.claimable_iff {g : Stage} : g.claimable = true ↔ g = .ready ∨ g = .rescan := by
  cases g <;> simp [Stage.claimable]

theorem Stage.closable_claim {g : Stage} (h : g.closable = true) : g.claim? = none := by
  cases g <;> simp_all [Stage.closable, Stage.claim?]

theorem LoadedRun.unloadable_iff {x : LoadedRun} :
    x.unloadable = true ↔ x.stage = .loading ∨ x.stage = .ready ∧ x.passCount = 0 := by
  simp [LoadedRun.unloadable]

theorem clampTo_range {low high x : Nat} (h : low ≤ high) : low ≤ clampTo low high x ∧ clampTo low high x ≤ high := by
  unfold clampTo
  omega

/-! ## Each serving's change -/

variable {s : State}

theorem serveConfigure_change (p : Port) (a b c d e : U16) (hm : s.mode = .halted) :
    Change s (.configure p a b c d e) (serveConfigure a b c d e s).state :=
  .configure p a b c d e _
    ⟨clampTo_range (by decide), clampTo_range (by decide), (clampTo_range (by decide)).2, clampTo_range (by decide),
      clampTo_range (by decide)⟩ hm

theorem serveCloseSection_change (p : Port) (hm : s.mode = .counting ∨ s.mode = .paused) :
    Change s (.closeSection p) (serveCloseSection s).state := by
  unfold serveCloseSection
  split_ifs with hbusy hloading
  · exact .none _
  · exact .none _
  · exact .close p hm fun x hx => by simpa [Stage.inFlight] using fun h => hbusy (List.any_eq_true.mpr ⟨x, hx, h⟩)

theorem serveLoadRun_change (c : Instr) (run : U16) (lower upper : CarriedKey) (length : U16) (hm : s.mode.Loadable) :
    Change s c (serveLoadRun run lower upper length s).state := by
  unfold serveLoadRun
  split
  · exact .none _
  · split
    · split_ifs
      · exact .none _
      · split
        · exact .none _
        · exact .loadRun _ _ _ _ _ ‹_› hm
    · exact .none _

theorem serveLoadItem_change (c : Instr) (run : U16) (tag : Tag) (key : CarriedKey) (initial : Byte) :
    Change s c (serveLoadItem run tag key initial s).state := by
  unfold serveLoadItem
  split
  · exact .none _
  split
  · exact .none _
  split
  · exact .none _
  split
  · exact .none _
  split_ifs with hstage
  · exact .none _
  split
  · exact .none _
  · exact .loadItem _ _ _ _ _ _ ‹_› (not_not.mp hstage) ‹_›

theorem serveLoadDone_change (c : Instr) (run : U16) : Change s c (serveLoadDone run s).state := by
  unfold serveLoadDone
  split
  · exact .none _
  split
  · exact .none _
  split_ifs with hstage
  · exact .loadDone _ _ _ ‹_› hstage
  · exact .none _

theorem serveUnloadRun_change (c : Instr) (run : U16) : Change s c (serveUnloadRun run s).state := by
  unfold serveUnloadRun
  split
  · exact .none _
  split
  · exact .none _
  split_ifs with hstage
  · exact .unload _ _ _ ‹_› ((LoadedRun.unloadable_iff.mp hstage).imp_right And.left)
  · exact .none _

theorem serveCloseRun_change (c : Instr) (run : U16) : Change s c (serveCloseRun run s).state := by
  unfold serveCloseRun
  split
  · exact .none _
  split
  · exact .none _
  split_ifs with hstage
  · exact .closeRun _ _ _ ‹_› (Stage.closable_claim hstage)
  · exact .none _

theorem serveResetPasses_change (c : Instr) (run : U16) : Change s c (serveResetPasses run s).state := by
  unfold serveResetPasses
  split
  · exact .none _
  split
  · exact .none _
  split_ifs with hstage
  · exact .resetPasses _ _ _ ‹_› (by rcases hstage with h | h <;> rw [h] <;> rfl)
  · exact .none _

theorem serveForceRelease_change (p : Port) (run : U16) :
    Change s (.forceRelease p run) (serveForceRelease run s).state := by
  unfold serveForceRelease
  split
  · exact .none _
  split
  · exact .none _
  split
  · exact .none _
  · exact .forceRelease p run _

theorem serveReadDiscrepancy_change (c : Instr) : Change s c (serveReadDiscrepancy s).state := by
  unfold serveReadDiscrepancy
  split
  · exact .none _
  · exact .readRecord _ _ _ ‹_›

theorem serveSetDivert_change (p : Port) (wand a b d : Byte) :
    Change s (.setDivert p wand a b d) (serveSetDivert wand a b d s).state := by
  unfold serveSetDivert
  split
  · exact .setDivert ..
  · exact .none _

theorem serveDivert_change (p : Port) (wand : Byte) : Change s (.divert p wand) (serveDivert wand s).state := by
  unfold serveDivert
  split
  · exact .none _
  dsimp only
  split
  · exact .none _
  split_ifs with hfull
  · exact .none _
  · exact .divert p wand _ _ (Nat.lt_of_not_le hfull)

theorem serveSetWindow_change (a b : Byte) (w : WandPort) :
    WandChange s w (.setWindow w.port a b) (serveSetWindow a b w s).state := by
  unfold serveSetWindow
  split
  · next x y _ _ =>
    exact .window (.setWindow w.port a b) _ _ (fun c => { c with bayA := x, bayB := y, cursor := none }) rfl fun _ => rfl
  · exact .none _

theorem serveSetDirection_change (d : Byte) (w : WandPort) :
    WandChange s w (.setDirection w.port d) (serveSetDirection d w s).state := by
  unfold serveSetDirection
  split
  · exact .none _
  next x _ =>
  split_ifs
  · exact .none _
  · exact .window (.setDirection w.port d) _ _ (fun c => { c with direction := x }) rfl fun _ => rfl

theorem serveClaim_change (index : Byte) (w : WandPort) (hm : s.mode = .counting) :
    WandChange s w (.claim w.port index) (serveClaim index w s).state := by
  unfold serveClaim
  split
  · exact .none _
  dsimp only
  split
  · exact .none _
  split_ifs with hstage hheld hlast
  · exact .none _
  · exact .none _
  · exact .none _
  · exact .claim _ _ _ _ (.inl ⟨index, rfl⟩) hm ‹_› (Stage.claimable_iff.mp (by simpa using hstage)) (not_not.mp hheld)
      hlast

/-- A search that finds a shelf finds a loaded run there that admits a claim. -/
theorem State.searchClaim_some {c : Context} {l : List ShelfIndex} {i : ShelfIndex} {x : LoadedRun}
    (h : s.searchClaim c l = some (i, x)) : s.run (c.resolve i) = some x ∧ x.stage.claimable = true := by
  induction l with
  | nil => cases h
  | cons j l ih =>
    simp only [State.searchClaim] at h
    split at h
    · split_ifs at h with hx
      · cases h
        exact ⟨‹_›, hx⟩
      · exact ih h
    · exact ih h

theorem serveClaimNext_change (w : WandPort) (hm : s.mode = .counting) :
    WandChange s w (.claimNext w.port) (serveClaimNext w s).state := by
  unfold serveClaimNext
  dsimp only
  split
  · exact .none _
  next hheld =>
  split
  · exact .none _
  · next i x hfound =>
    obtain ⟨hr, hx⟩ := State.searchClaim_some hfound
    split_ifs with hlast
    · exact .none _
    · exact .claim _ _ _ _ (.inr rfl) hm hr (Stage.claimable_iff.mp hx) (not_not.mp hheld) hlast

theorem serveSight_change (xs : List Sighting) (w : WandPort) :
    WandChange s w (.sight w.port xs) (serveSight xs w s).state := by
  unfold serveSight
  split
  · exact .none _
  split
  · exact .none _
  · exact .sight _ _ ‹_›

/-- A claimant test that passes has found the requesting port's claim. -/
theorem State.claimantTest_inr {w : WandPort} {r : RunNo} {x : LoadedRun} {k : Claim}
    (h : s.claimantTest w r = .inr (x, k)) : s.run r = some x ∧ x.stage = .claimed k ∧ k.claimant = w := by
  unfold State.claimantTest at h
  split at h
  · cases h
  · split at h
    · split_ifs at h with hw
      cases h
      exact ⟨‹_›, ‹_›, hw⟩
    · cases h
    · split_ifs at h

theorem serveRunEnd_change (run : U16) (w : WandPort) :
    WandChange s w (.runEnd w.port run) (serveRunEnd run w s).state := by
  unfold serveRunEnd
  split
  · exact .none _
  · next r hrun =>
    split
    · exact .none _
    · next x k hk =>
      obtain ⟨hr, hx, hw⟩ := State.claimantTest_inr hk
      refine .runEnd _ r x k _ _ _ hr hx hw ?_
      split_ifs
      · exact .inl rfl
      · exact .inr (by simp)

theorem serveRunAbandon_change (run : U16) (w : WandPort) :
    WandChange s w (.runAbandon w.port run) (serveRunAbandon run w s).state := by
  unfold serveRunAbandon
  split
  · exact .none _
  · next r hrun =>
    split
    · exact .none _
    · next x k hk =>
      obtain ⟨hr, hx, hw⟩ := State.claimantTest_inr hk
      exact .runAbandon _ r x k hr hx hw

theorem serveResume_change (w : WandPort) : WandChange s w (.resume w.port) (serveResume w s).state := by
  unfold serveResume
  dsimp only
  split_ifs with hheld
  · exact .none _
  split
  · exact .none _
  · exact .resume _ _ (not_not.mp hheld) ‹_›

theorem serveSetMask_change (p : Port) (kinds : U16) : Change s (.setMask p kinds) (serveSetMask p kinds s).state := by
  unfold serveSetMask
  split
  · exact .none _
  · exact .setMask ..

theorem serveLoan_change (p : Port) (tag : Tag) : Change s (.loan p tag) (serveLoan tag s).state := by
  unfold serveLoan
  split
  · exact .none _
  · exact .loan _ _ _ _ ‹_›

theorem serveReturn_change (p : Port) (tag : Tag) : Change s (.returnItem p tag) (serveReturn tag s).state := by
  unfold serveReturn
  split
  · exact .none _
  · exact .takeBack _ _ _ _ ‹_›

/-- A request that a wand's role admits comes from a wand port and is served for it. -/
theorem asWand_change {p : Port} {serve : WandPort → State → Served} {make : Port → Instr}
    (hrole : (p.role == .wand) = true) (h : ∀ w : WandPort, WandChange s w (make w.port) (serve w s).state) :
    Change s (make p) (asWand p serve s).state := by
  obtain ⟨w, rfl⟩ := wand_of_role (beq_iff_eq.mp hrole)
  rw [asWand_port]
  exact (h w).change

/-- An admitted request makes one of the changes. -/
theorem serving_change {c : Instr} {p : Port} {k : RequestKind} {payload : List Byte}
    (hc : c.request = some (p, k, payload)) (hrole : k.inRole p.role = true) (hm : k.modeTest s.mode = none) :
    Change s c (serving c s).state := by
  cases c <;> cases hc
  case configure => exact serveConfigure_change _ _ _ _ _ _ (by simpa using modeAmong_none hm)
  case start => exact .enter _ _ ⟨by simpa using modeAmong_none hm, rfl⟩ (.inl rfl)
  case pause => exact .enter _ _ ⟨by simpa using modeAmong_none hm, rfl⟩ (.inr rfl)
  case continueCount => exact .enter _ _ ⟨by simpa using modeAmong_none hm, rfl⟩ (.inl rfl)
  case closeSection => exact serveCloseSection_change _ (by simpa using modeAmong_none hm)
  case wipe => exact .wipe _ (by simpa using modeAmong_none hm)
  case deviceReset => exact .deviceReset _
  case status => exact .none _
  case totals => exact .none _
  case loadRun => exact serveLoadRun_change _ _ _ _ _ (loadable_of_modeAmong hm)
  case loadItem => exact serveLoadItem_change ..
  case loadDone => exact serveLoadDone_change ..
  case unloadRun => exact serveUnloadRun_change ..
  case closeRun => exact serveCloseRun_change ..
  case resetPasses => exact serveResetPasses_change ..
  case forceRelease => exact serveForceRelease_change ..
  case readRun run => exact (serveReadRun_state s run).symm ▸ .none _
  case readEntry run ordinal => exact (serveReadEntry_state s run ordinal).symm ▸ .none _
  case readStray ordinal => exact (serveReadStray_state s ordinal).symm ▸ .none _
  case readDiscrepancy => exact serveReadDiscrepancy_change _
  case locate key => exact (serveLocate_state s key).symm ▸ .none _
  case setDivert => exact serveSetDivert_change ..
  case divert => exact serveDivert_change ..
  case setWindow a b => exact asWand_change (make := (.setWindow · a b)) hrole (serveSetWindow_change a b)
  case setDirection d => exact asWand_change (make := (.setDirection · d)) hrole (serveSetDirection_change d)
  case claim index =>
    exact asWand_change (make := (.claim · index)) hrole fun w =>
      serveClaim_change index w (by simpa using modeAmong_none hm)
  case claimNext =>
    exact asWand_change (make := .claimNext) hrole fun w => serveClaimNext_change w (by simpa using modeAmong_none hm)
  case sight xs => exact asWand_change (make := (.sight · xs)) hrole (serveSight_change xs)
  case runEnd run => exact asWand_change (make := (.runEnd · run)) hrole (serveRunEnd_change run)
  case runAbandon run => exact asWand_change (make := (.runAbandon · run)) hrole (serveRunAbandon_change run)
  case resume => exact asWand_change (make := .resume) hrole serveResume_change
  case queryRun index =>
    exact asWand_change (make := (.queryRun · index)) hrole fun w => (serveQueryRun_state s index w).symm ▸ .none _
  case queryItem tag => exact (serveQueryItem_state s tag).symm ▸ .none _
  case setMask => exact serveSetMask_change ..
  case loan => exact serveLoan_change ..
  case returnItem => exact serveReturn_change ..

end Sys2Proof.Machine
end

section
/-! PROOFS. Invariants of the part's records: what must be shown of such an invariant, and that every step then keeps
it. -/
namespace Sys2Proof.Machine

/-- The part without its link: the waiting commands, the pins and the ports at their reset values. -/
def State.records (s : State) : State :=
  { s with pending := [], pins := State.reset.pins, receiving := false, ports := State.reset.ports }

theorem State.receive_records (s : State) (p : Port) (bytes : List Byte) : (s.receive p bytes).records = s.records := by
  unfold State.receive
  split <;> rfl

theorem State.rejectFrame_records (s : State) (p : Port) : (s.rejectFrame p).records = s.records := by
  unfold State.rejectFrame
  split
  · rfl
  · split <;> rfl

theorem State.enableReceive_records (s : State) : s.enableReceive.records = s.records := by
  unfold State.enableReceive
  split <;> rfl

/-- What the expiries, the events and the admitted requests must keep, of a property that reads the records alone. -/
structure RecordInvariant (P : State → Prop) : Prop where
  records : ∀ s t : State, t.records = s.records → P s → P t
  reset : P State.reset
  abandon : ∀ s r y, P s → P (s.abandon r y)
  advance : ∀ s, P s → P s.advance
  close : ∀ s, P s → P s.completeClose
  wipe : ∀ s, P s → P s.completeWipe
  wand : ∀ s w, P s → P (s.resetWand w)
  change : ∀ s c t, Change s c t → P s → P t

namespace RecordInvariant
variable {P : State → Prop} (inv : RecordInvariant P)
include inv

/-- Where the records are as they were, the invariant still holds. -/
theorem of_records {s t : State} (h : P s) (e : t.records = s.records) : P t := inv.records s t e h

theorem releaseClaim (s : State) (r : RunNo) (y : Reason) (h : P s) : P (s.releaseClaim r y) := by
  unfold State.releaseClaim
  split
  · exact inv.of_records (inv.abandon s r y h) rfl
  · exact h

theorem kick (s : State) (h : P s) : P s.kick := inv.of_records h rfl

theorem settle (s : State) (h : P s) : P s.settle :=
  State.settle_keeps inv.kick (fun t r ht => inv.releaseClaim t r _ ht) h

theorem powerOn (s : State) (receiving : Bool) (pins : Pins) :
    P { s.powerOnValues receiving with pins := pins } := inv.of_records inv.reset rfl

theorem request (c : Instr) (s : State) (h : P s) : P (request c (serving c) s) :=
  request_keeps inv.settle (fun t p bytes ht => inv.of_records ht (t.receive_records p bytes))
    (fun _ _ _ ht => inv.of_records ht rfl) inv.kick
    (fun t _ _ _ hc hrole hm => inv.change t c _ (serving_change hc hrole hm)) h

theorem resetPort (s : State) (p : Port) (h : P s) : P (s.resetPort p) := by
  unfold State.resetPort
  dsimp only
  split_ifs
  · exact inv.powerOn _ _ _
  · split
    · exact inv.wand _ _ (inv.of_records h rfl)
    · exact inv.of_records h rfl

theorem effect {c : Instr} {f : State → State} (hc : effect c = some f) (s : State) (h : P s) : P (f s) := by
  cases c <;> cases hc
  case closeCompletion => exact inv.close s h
  case wipeCompletion => exact inv.wipe s h
  case deviceResetEffect =>
    unfold State.takeDeviceReset
    split
    · exact inv.powerOn s _ _
    · exact h
  case sectionClockAdvance => exact inv.advance s h
  case claimExpiry => exact h
  case frameReceived p bytes => exact inv.of_records h (s.receive_records p _)
  case frameRejected p => exact inv.of_records h (s.rejectFrame_records p)
  case frameTimeout => exact inv.of_records h rfl
  case transmitFrameEnd p =>
    dsimp only [State.transmitEnd]
    split
    · exact inv.powerOn s _ _
    · exact inv.of_records h rfl
  case portReset p =>
    dsimp only [State.takeBreak]
    split
    · exact h
    · exact inv.resetPort _ p (inv.of_records h rfl)
  case startByte p => exact inv.of_records h (s.receive_records p _)
  case frameLengthInvalid p length => exact inv.of_records h (s.receive_records p _)
  case breakEnd => exact inv.of_records h rfl
  case receiveEnable => exact inv.of_records h s.enableReceive_records

/-- Every command keeps the invariant. -/
theorem exec {c : Instr} {s t : State} (ht : exec c s = .next t) (h : P s) : P t := by
  cases taken_of_exec ht with
  | request hc => exact inv.request c s h
  | event hc => exact event_keeps inv.settle inv.kick (inv.effect hc) h
  | level p low hc hlow => exact inv.of_records h rfl
  | reset pins hc => exact inv.powerOn s false pins
  | release hc hlow => exact h

/-- Every step keeps the invariant. -/
theorem step {s t : State} (h : P s) (ht : step s = .next t) : P t := by
  unfold Machine.step at ht
  split at ht
  · cases ht
    exact h
  · exact inv.exec ht (inv.of_records h rfl)

end RecordInvariant

end Sys2Proof.Machine
end

section
/-! PROOFS. The small changes that sightings, judgements and circulation are made of. A property that each of these moves
keeps is kept by a whole SIGHT, by the pass-end judgement, by LOAN and by RETURN. -/
namespace Sys2Proof.Machine

/-- The entry is the same item as before: its tag, key, home run and status stay. -/
structure Entry.SameItem (e f : Entry) : Prop where
  tag : f.tag = e.tag
  key : f.key = e.key
  homeRun : f.homeRun = e.homeRun
  status : f.status = e.status

/-- One small change made for a wand in the pass on a run. -/
inductive Move (r : RunNo) (w : WandPort) (s : State) : State → Prop
  | offer (d) : Move r w s (s.offer d)
  | prompt (n) : Move r w s (s.prompt w n)
  | entry (i f) (hf : ∀ e, Entry.SameItem e (f e)) : Move r w s (s.updateEntry i f)
  | status (i st) : Move r w s (s.setStatus i st)
  | withdraw (i) : Move r w s (s.withdraw i)
  | pass (f) (hf : ∀ p, (f p).lastPosition = p.lastPosition) : Move r w s (s.updatePass r f)
  | accept (n) : Move r w s (s.accept r n)
  | addStray (y) (hlisted : s.lookup y.tag = none) (hnew : s.strayOf y.tag = none)
      (hroom : s.strays.length < Config.strayCapacity) : Move r w s (s.addStray y)
  | strays (f) (hf : ∀ y, Stray.tag (f y) = y.tag) : Move r w s { s with strays := s.strays.map f }

/-- Moves made one after another. -/
abbrev Moves (r : RunNo) (w : WandPort) : State → State → Prop := Relation.ReflTransGen (Move r w)

/-- What every move keeps, moves keep. -/
theorem Moves.keep {r : RunNo} {w : WandPort} {P : State → Prop} (hP : ∀ s t, Move r w s t → P s → P t) {s t : State}
    (h : Moves r w s t) (hs : P s) : P t := by
  induction h with
  | refl => exact hs
  | tail _ hm ih => exact hP _ _ hm ih

/-- What every move leaves as it is, moves leave. -/
theorem Moves.view {r : RunNo} {w : WandPort} {β : Type} (v : State → β) (hv : ∀ s t, Move r w s t → v t = v s)
    {s t : State} (h : Moves r w s t) : v t = v s :=
  h.keep (P := fun u => v u = v s) (fun a b hab ha => (hv a b hab).trans ha) rfl

section
variable {s : State} {r : RunNo} {w : WandPort}

theorem count_move (k : Counter) : Move r w s (s.count r k) := .pass _ fun _ => rfl

/-! ## Judgements (R97, R98) -/

theorem judge_moves (i : Nat) (e : Entry) (j : Judgement) : Moves r w s (s.judge r w i e j) := by
  have judged (st : Status) (k : Counter) : Moves r w s
      (((s.updateEntry i fun e => { e with judgement := some j }).setStatus i st).count r k) :=
    .tail (.tail (.single (.entry i _ fun _ => by exact ⟨rfl, rfl, rfl, rfl⟩)) (.status i st)) (count_move k)
  cases j with
  | inOrder => exact judged _ _
  | ahead => exact .tail (.tail (judged _ _) (.offer _)) (.prompt _)
  | behind => exact .tail (.tail (judged _ _) (.offer _)) (.prompt _)
  | visitor => exact .refl
  | unjudged => exact .refl

theorem judgePassEnd_moves (p : PassRecord) : Moves r w s (s.judgePassEnd r w p) := by
  unfold State.judgePassEnd
  split
  · exact .refl
  split
  · exact .refl
  · exact judge_moves _ _ _

/-! ## Sightings (R81 to R112) -/

theorem gapTest_moves (p : PassRecord) (n : Nat) : Moves r w s (s.gapTest r w p n) := by
  unfold State.gapTest
  split
  · exact .refl
  split
  · exact .tail (.tail (.single (.offer _)) (count_move _)) (.prompt _)
  · exact .refl

theorem sightStray_moves (n : U32) (x : Nat) (t : Tag) (hl : s.lookup t = none) :
    Moves r w s (s.sightStray r w n x t).2 := by
  unfold State.sightStray
  split
  · split
    · exact .refl
    · refine .tail (.single (.strays _ fun z => ?_)) (count_move _)
      split <;> rfl
  · next hnew =>
    split
    · next hroom => exact .tail (.tail (.single (.addStray _ hl hnew hroom)) (count_move _)) (.prompt _)
    · exact .tail (.single (.offer _)) (count_move _)

theorem sightAgain_moves (n : U32) (x i : Nat) (e : Entry) (l : LastSighting) :
    Moves r w s (s.sightAgain r w n x i e l).2 := by
  unfold State.sightAgain
  split
  · exact .refl
  · exact .tail (.tail (.tail (.single (.entry i _ fun _ => by exact ⟨rfl, rfl, rfl, rfl⟩)) (.offer _))
      (.entry i _ fun _ => by exact ⟨rfl, rfl, rfl, rfl⟩)) (count_move _)

theorem arrive_moves (p : PassRecord) (i : Nat) (key : ShelfKey) : Moves r w s (s.arrive r w p i key) := by
  unfold State.arrive
  dsimp only
  split
  · exact .single (.pass _ fun _ => rfl)
  split
  · exact .single (.pass _ fun _ => rfl)
  · refine .tail ?_ (.pass _ fun _ => rfl)
    split
    · exact .tail (judge_moves _ _ _) (.pass _ fun _ => rfl)
    · exact judge_moves _ _ _

theorem visit_moves (x i : Nat) (e : Entry) : Moves r w s (s.visit r w x i e) :=
  .tail (.tail (.tail (.tail (.single (.entry i _ fun _ => by exact ⟨rfl, rfl, rfl, rfl⟩)) (.status i _)) (count_move _))
    (.offer _)) (.prompt _)

theorem sightFresh_moves (n : U32) (x i : Nat) (e : Entry) : Moves r w s (s.sightFresh r w n x i e).2 := by
  unfold State.sightFresh
  dsimp only
  have seen : Moves r w s ((s.withdraw i).updateEntry i fun e =>
      { e with lastSighting := some ((s.withdraw i).reading r w n x) }) :=
    .tail (.single (.withdraw i)) (.entry i _ fun _ => by exact ⟨rfl, rfl, rfl, rfl⟩)
  have read : Moves r w s (if e.status = .onLoan then
      (((s.withdraw i).updateEntry i fun e =>
        { e with lastSighting := some ((s.withdraw i).reading r w n x) }).updateEntry i fun e =>
          { e with flags := { e.flags with loanConflict := true } }).offer
        (readingRecord ((s.withdraw i).updateEntry i fun e =>
          { e with lastSighting := some ((s.withdraw i).reading r w n x) }) .phantomLoan r w i e.tag x)
      else (s.withdraw i).updateEntry i fun e =>
        { e with lastSighting := some ((s.withdraw i).reading r w n x) }) := by
    split
    · exact .tail (.tail seen (.entry i _ fun _ => by exact ⟨rfl, rfl, rfl, rfl⟩)) (.offer _)
    · exact seen
  split
  · exact read.trans (visit_moves x i e)
  · have home := read.tail (.entry i (fun e => { e with judgement := some .unjudged }) fun _ => by exact ⟨rfl, rfl, rfl, rfl⟩)
    split
    · exact home.trans (arrive_moves _ _ _)
    · exact home

theorem classify_moves (n : U32) (x : Nat) (clamped : Bool) (t : Tag) : Moves r w s (s.classify r w n x clamped t).2 := by
  unfold State.classify
  split
  · next hl => exact sightStray_moves n x t hl
  · next i e _ =>
    dsimp only
    have flagged : Moves r w s (if clamped then
        s.updateEntry i fun e => { e with flags := { e.flags with clamped := true } } else s) := by
      split
      · exact .single (.entry i _ fun _ => by exact ⟨rfl, rfl, rfl, rfl⟩)
      · exact .refl
    split
    · split
      · exact flagged.trans (sightAgain_moves _ _ _ _ _)
      · exact flagged.trans (sightFresh_moves _ _ _ _)
    · exact flagged.trans (sightFresh_moves _ _ _ _)

theorem sightOne_moves (x : Sighting) : Moves r w s (s.sightOne r w x).2 := by
  unfold State.sightOne
  split
  · exact .refl
  split
  · exact .refl
  dsimp only
  split
  · exact .refl
  · exact ((gapTest_moves _ _).tail (.accept _)).trans (classify_moves _ _ _ _)

end

theorem sightAll_moves (s : State) (r : RunNo) (w : WandPort) (xs : List Sighting) :
    Moves r w s (s.sightAll r w xs).2 := by
  induction xs generalizing s with
  | nil => exact .refl
  | cons x xs ih => exact (sightOne_moves x).trans (ih _)

/-! ## Circulation (R117 to R121) -/

theorem lent_moves (s : State) (r : RunNo) (w : WandPort) (i : Nat) (e : Entry) : Moves r w s (s.lent i e) := by
  unfold State.lent
  dsimp only
  have seen : Moves r w s (if ((s.pendingRun i).isSome || seenStatus e.status) = true then
      (s.withdraw i).flagSeenBeforeLoan i else s.withdraw i) := by
    split
    · exact .tail (.single (.withdraw i)) (.entry i _ fun _ => by exact ⟨rfl, rfl, rfl, rfl⟩)
    · exact .single (.withdraw i)
  split
  · exact (seen.tail (.entry i _ fun _ => by exact ⟨rfl, rfl, rfl, rfl⟩)).tail (.offer _)
  · exact seen.tail (.status i _)

theorem takenBack_moves (s : State) (r : RunNo) (w : WandPort) (i : Nat) (e : Entry) : Moves r w s (s.takenBack i e) := by
  unfold State.takenBack
  dsimp only
  have flagged : Moves r w s (if e.status = .expected then s.flagLoanConflict i else s) := by
    split
    · exact .single (.entry i _ fun _ => by exact ⟨rfl, rfl, rfl, rfl⟩)
    · exact .refl
  have returned : Moves r w s (if e.status = .onLoan ∨ e.status = .expected then
      (if e.status = .expected then s.flagLoanConflict i else s).setStatus i .returned
      else if e.status = .expected then s.flagLoanConflict i else s) := by
    split
    · exact flagged.tail (.status i _)
    · exact flagged
  split
  · exact returned
  · exact returned.tail (.offer _)

end Sys2Proof.Machine
end

section
/-! PROOFS. What moves leave: section control and the contexts, and of every run all but its tallies and its pass. And who
holds a run: the state and the claimant of a CLAIMED or HELD one. -/
namespace Sys2Proof.Machine

/-! ## The fields that moves leave -/

section
variable {r : RunNo} {w : WandPort} {s t : State}

theorem Moves.mode (h : Moves r w s t) : t.mode = s.mode := h.view _ fun _ _ hm => by cases hm <;> simp
theorem Moves.config (h : Moves r w s t) : t.config = s.config := h.view _ fun _ _ hm => by cases hm <;> simp
theorem Moves.clock (h : Moves r w s t) : t.clock = s.clock := h.view _ fun _ _ hm => by cases hm <;> simp
theorem Moves.operation (h : Moves r w s t) : t.operation = s.operation := h.view _ fun _ _ hm => by cases hm <;> simp
theorem Moves.resetScheduled (h : Moves r w s t) : t.resetScheduled = s.resetScheduled :=
  h.view _ fun _ _ hm => by cases hm <;> simp
theorem Moves.passSerial (h : Moves r w s t) : t.passSerial = s.passSerial :=
  h.view _ fun _ _ hm => by cases hm <;> simp
theorem Moves.wands (h : Moves r w s t) : t.wands = s.wands := h.view _ fun _ _ hm => by cases hm <;> simp

end

/-! ## A run without its tallies and its pass -/

/-- A run with its tallies, its claim timer and its pass record blotted out. -/
def LoadedRun.outline (x : LoadedRun) : LoadedRun :=
  { x with
    stage := x.stage.mapClaim fun c => { c with timer := 0, pass := PassRecord.begin 0 .forward }
    shelf := { x.shelf with tallies := .zero } }

/-- The outlines of the runs. -/
def State.outline (s : State) (q : RunNo) : Option LoadedRun := (s.run q).map LoadedRun.outline

theorem State.outline_of_runs {s t : State} (h : t.runs = s.runs) : t.outline = s.outline := by
  funext q
  simp only [State.outline, State.run, h]

/-- Changing of one run what the outline blots out leaves the outlines. -/
theorem State.updateRun_outline (s : State) (r : RunNo) {f : LoadedRun → LoadedRun}
    (hf : ∀ x, (f x).outline = x.outline) : (s.updateRun r f).outline = s.outline := by
  funext q
  simp only [State.outline, State.run_updateRun]
  split_ifs with hq
  · subst hq
    simp [Function.comp_def, hf]
  · rfl

theorem State.updateClaim_outline (s : State) (r : RunNo) {f : Claim → Claim} (hf : ∀ c, (f c).claimant = c.claimant) :
    (s.updateClaim r f).outline = s.outline :=
  s.updateRun_outline r fun x => by
    cases hx : x.stage <;> simp [LoadedRun.outline, hx, Stage.mapClaim, hf]

theorem State.updatePass_outline (s : State) (r : RunNo) (f : PassRecord → PassRecord) :
    (s.updatePass r f).outline = s.outline := s.updateClaim_outline r fun _ => rfl

theorem State.setStatus_outline (s : State) (i : Nat) (st : Status) : (s.setStatus i st).outline = s.outline := by
  cases he : s.entry i with
  | none => simp [State.setStatus, he]
  | some e =>
    by_cases hst : e.status = st
    · rw [State.setStatus_same he hst]
    · rw [State.setStatus_move he hst]
      exact State.updateRun_outline _ _ fun _ => rfl

theorem State.withdraw_outline (s : State) (i : Nat) : (s.withdraw i).outline = s.outline := by
  unfold State.withdraw
  split
  · exact s.updatePass_outline _ _
  · rfl

theorem Moves.outline {r : RunNo} {w : WandPort} {s t : State} (h : Moves r w s t) : t.outline = s.outline := by
  refine h.view _ fun a b hm => ?_
  cases hm with
  | offer d => exact State.outline_of_runs (by simp)
  | prompt n => rfl
  | entry i f hf => exact State.outline_of_runs (by simp)
  | status i st => exact a.setStatus_outline i st
  | withdraw i => exact a.withdraw_outline i
  | pass f hf => exact a.updatePass_outline r f
  | accept n => exact a.updateClaim_outline r fun _ => rfl
  | addStray y hl hn hr => exact State.outline_of_runs (by simp)
  | strays f hf => rfl

/-- A run in outline, read back: a run there before with the same outline. -/
theorem run_of_outline {s t : State} (h : t.outline = s.outline) {q : RunNo} {x : LoadedRun} (hx : t.run q = some x) :
    ∃ y, s.run q = some y ∧ x.outline = y.outline := by
  have hq : s.outline q = some x.outline := by rw [← h, State.outline, hx]; rfl
  obtain ⟨y, hy, he⟩ := Option.map_eq_some_iff.mp hq
  exact ⟨y, hy, he.symm⟩

theorem outline_passCount {x y : LoadedRun} (h : x.outline = y.outline) : x.passCount = y.passCount :=
  (congrArg LoadedRun.passCount h :)

theorem outline_lastPass {x y : LoadedRun} (h : x.outline = y.outline) : x.lastPass = y.lastPass :=
  (congrArg LoadedRun.lastPass h :)

theorem outline_length {x y : LoadedRun} (h : x.outline = y.outline) : x.length = y.length :=
  (congrArg LoadedRun.length h :)

theorem outline_entries {x y : LoadedRun} (h : x.outline = y.outline) : x.shelf.entries = y.shelf.entries :=
  (congrArg (fun z : LoadedRun => z.shelf.entries) h :)

theorem outline_state {x y : LoadedRun} (h : x.outline = y.outline) : x.stage.state = y.stage.state := by
  have := congrArg (fun z : LoadedRun => z.stage.state) h
  simpa [LoadedRun.outline, Stage.mapClaim_state] using this

/-! ## Who holds a run (R44, R50) -/

/-- The state and the claimant of a CLAIMED or HELD run. -/
def Stage.holder : Stage → Option (RunState × WandPort)
  | .claimed c => some (.claimed, c.claimant)
  | .held c => some (.held, c.claimant)
  | .loading => none
  | .ready => none
  | .checked => none
  | .rescan => none
  | .review => none
  | .closed => none

/-- Who holds a run, and whether it is CLAIMED or HELD. -/
def State.holder (s : State) (r : RunNo) : Option (RunState × WandPort) := (s.run r).bind fun x => x.stage.holder

theorem Stage.holder_mapClaim (g : Stage) {f : Claim → Claim} (hf : ∀ c, (f c).claimant = c.claimant) :
    (g.mapClaim f).holder = g.holder := by
  cases g <;> simp [Stage.mapClaim, Stage.holder, hf]

theorem Stage.holder_eq_none {g : Stage} : g.holder = none ↔ g.claim? = none := by
  cases g <;> simp [Stage.holder, Stage.claim?]

theorem State.holder_some {s : State} {r : RunNo} {x : LoadedRun} (h : s.run r = some x) :
    s.holder r = x.stage.holder := by simp [State.holder, h]

theorem State.holder_claimed {s : State} {r : RunNo} {w : WandPort} :
    s.holder r = some (.claimed, w) ↔ ∃ x c, s.run r = some x ∧ x.stage = .claimed c ∧ c.claimant = w := by
  unfold State.holder
  cases s.run r with
  | none => simp
  | some x => cases hx : x.stage <;> simp [Stage.holder, hx]

theorem State.holder_held {s : State} {r : RunNo} {w : WandPort} :
    s.holder r = some (.held, w) ↔ ∃ x c, s.run r = some x ∧ x.stage = .held c ∧ c.claimant = w := by
  unfold State.holder
  cases s.run r with
  | none => simp
  | some x => cases hx : x.stage <;> simp [Stage.holder, hx]

theorem State.holder_eq_none {s : State} {r : RunNo} : s.holder r = none ↔ s.claim? r = none := by
  unfold State.holder State.claim?
  cases s.run r with
  | none => simp
  | some x => exact Stage.holder_eq_none

theorem State.holder_of_claim {s : State} {r : RunNo} {k : Claim} (h : s.claim? r = some k) :
    s.holder r = some (.claimed, k.claimant) ∨ s.holder r = some (.held, k.claimant) := by
  obtain ⟨x, hx, hg⟩ := State.claim_some.mp h
  rw [State.holder_some hx]
  rcases hg with hg | hg <;> simp [hg, Stage.holder]

/-- The holders can be read off the outlines. -/
theorem State.holder_outline (s : State) (r : RunNo) : s.holder r = (s.outline r).bind fun x => x.stage.holder := by
  unfold State.holder State.outline
  cases s.run r with
  | none => rfl
  | some x =>
    exact (x.stage.holder_mapClaim (f := fun c => { c with timer := 0, pass := PassRecord.begin 0 .forward })
      fun _ => rfl).symm

theorem State.holder_of_outline {s t : State} (h : t.outline = s.outline) : t.holder = s.holder := by
  funext r
  rw [State.holder_outline, State.holder_outline, h]

theorem State.holder_of_runs {s t : State} (h : t.runs = s.runs) : t.holder = s.holder :=
  State.holder_of_outline (State.outline_of_runs h)

theorem State.holder_setRun (s : State) (r q : RunNo) (x : LoadedRun) :
    (s.setRun r x).holder q = if q = r then x.stage.holder else s.holder q := by
  simp only [State.holder, State.run_setRun]
  split_ifs <;> rfl

/-- An abandonment frees the run and leaves the others to their holders. -/
theorem State.holder_abandon (s : State) (r q : RunNo) (y : Reason) :
    (s.abandon r y).holder q = if q = r then none else s.holder q := by
  cases hr : s.run r with
  | none =>
    have he : s.abandon r y = s := by simp [State.abandon, hr]
    rw [he]
    split_ifs with hq
    · rw [hq, State.holder, hr]
      rfl
    · rfl
  | some x =>
    cases hk : x.stage.claim? with
    | none =>
      have he : s.abandon r y = s := by simp [State.abandon, hr, hk]
      rw [he]
      split_ifs with hq
      · rw [hq, State.holder_some hr, Stage.holder_eq_none.mpr hk]
      · rfl
    | some k =>
      simp only [State.holder, State.run_abandon hr hk]
      split_ifs
      · simp only [LoadedRun.abandoned, stageAfterPass, Option.bind_some]
        split <;> rfl
      · rfl

end Sys2Proof.Machine
end

section
/-! PROOFS. Claims, contexts and modes agree (R44, R50, R151): the agreement read through the holders of the runs, and its
being kept by every step. -/
namespace Sys2Proof.Machine

/-! ## The agreement through holders -/

theorem State.ClaimsAgree.current {s : State} (h : s.ClaimsAgree) {r : RunNo} {w : WandPort} :
    (s.wand w).current.claimedRun = some r ↔ s.holder r = some (.claimed, w) :=
  (h.claimed r w).trans State.holder_claimed.symm

theorem State.ClaimsAgree.stacked {s : State} (h : s.ClaimsAgree) {r : RunNo} {w : WandPort} :
    (∃ k ∈ (s.wand w).stack, k.claimedRun = some r) ↔ s.holder r = some (.held, w) :=
  (h.held r w).trans State.holder_held.symm

theorem claimsAgree_of {s : State}
    (hcur : ∀ w r, (s.wand w).current.claimedRun = some r ↔ s.holder r = some (.claimed, w))
    (hstk : ∀ w r, (∃ k ∈ (s.wand w).stack, k.claimedRun = some r) ↔ s.holder r = some (.held, w))
    (honce : ∀ w, (s.wand w).claims.Nodup) : s.ClaimsAgree :=
  ⟨fun r w => (hcur w r).trans State.holder_claimed, fun r w => (hstk w r).trans State.holder_held, honce⟩

theorem modeAgrees_of {s : State} (hop : s.operation = s.mode.operation)
    (hheld : ∀ r, s.holder r ≠ none → s.mode = .counting ∨ s.mode = .paused) : s.ModeAgrees :=
  ⟨hop, fun ⟨r, hr⟩ => hheld r fun hn => by simp [State.holder_eq_none.mp hn] at hr⟩

theorem State.ModeAgrees.of_holder {s : State} (h : s.ModeAgrees) {r : RunNo} (hr : s.holder r ≠ none) :
    s.mode = .counting ∨ s.mode = .paused :=
  h.claims ⟨r, Option.isSome_iff_ne_none.mpr fun hn => hr (State.holder_eq_none.mpr hn)⟩

/-- Outside COUNTING and PAUSED no run has a holder. -/
theorem State.ModeAgrees.no_holder {s : State} (h : s.ModeAgrees) (hm : ¬ (s.mode = .counting ∨ s.mode = .paused)) (r : RunNo) :
    s.holder r = none := by
  by_contra hr
  exact hm (h.of_holder hr)

theorem ContextStore.claims_eq (c : ContextStore) :
    c.claims = (c.current.claimedRun :: c.stack.map (·.claimedRun)).filterMap id := by
  simp [ContextStore.claims, List.filterMap_cons, List.filterMap_map]

theorem ContextStore.mem_claims {c : ContextStore} {r : RunNo} :
    r ∈ c.claims ↔ c.current.claimedRun = some r ∨ ∃ k ∈ c.stack, k.claimedRun = some r := by
  simp [ContextStore.claims]

/-- The agreement speaks of the claims that contexts name and of the holders alone. -/
theorem State.ClaimsAgree.congr {s t : State} (h : s.ClaimsAgree)
    (hcur : ∀ w, (t.wand w).current.claimedRun = (s.wand w).current.claimedRun)
    (hstk : ∀ w, (t.wand w).stack.map (·.claimedRun) = (s.wand w).stack.map (·.claimedRun))
    (hh : t.holder = s.holder) : t.ClaimsAgree := by
  have hmem (w : WandPort) (r : RunNo) : (∃ k ∈ (t.wand w).stack, k.claimedRun = some r) ↔
      ∃ k ∈ (s.wand w).stack, k.claimedRun = some r := by
    rw [← List.mem_map, hstk, List.mem_map]
  refine claimsAgree_of (fun w r => ?_) (fun w r => ?_) fun w => ?_
  · rw [hcur, hh, h.current]
  · rw [hmem, hh, h.stacked]
  · rw [ContextStore.claims_eq, hcur, hstk, ← ContextStore.claims_eq]
    exact h.once w

theorem State.ClaimsAgree.of_wands {s t : State} (h : s.ClaimsAgree) (hw : t.wands = s.wands) (hh : t.holder = s.holder) :
    t.ClaimsAgree :=
  h.congr (fun w => by rw [State.wand, hw]; rfl) (fun w => by rw [State.wand, hw]; rfl) hh

/-- A run is freed: no context names it any more, no other claim is touched. -/
theorem State.ClaimsAgree.freed {s t : State} (h : s.ClaimsAgree) (r : RunNo)
    (hh : ∀ q, t.holder q = if q = r then none else s.holder q)
    (hcur : ∀ w q, (t.wand w).current.claimedRun = some q ↔ q ≠ r ∧ (s.wand w).current.claimedRun = some q)
    (hstk : ∀ w q, (∃ k ∈ (t.wand w).stack, k.claimedRun = some q) ↔
      q ≠ r ∧ ∃ k ∈ (s.wand w).stack, k.claimedRun = some q)
    (honce : ∀ w, (t.wand w).claims.Sublist (s.wand w).claims) : t.ClaimsAgree := by
  refine claimsAgree_of (fun w q => ?_) (fun w q => ?_) fun w => (h.once w).sublist (honce w)
  · rw [hcur, hh, h.current]
    split_ifs with hq <;> simp [hq]
  · rw [hstk, hh, h.stacked]
    split_ifs with hq <;> simp [hq]

/-! ## Abandonment (R58) -/

theorem Context.release_claimedRun {r q : RunNo} {c : Context} :
    (c.release r).claimedRun = some q ↔ q ≠ r ∧ c.claimedRun = some q := by
  unfold Context.release
  split_ifs with hc
  · simp only [hc, Option.some.injEq, false_iff, not_and]
    exact fun hq he => hq he.symm
  · refine ⟨fun h => ⟨?_, h⟩, And.right⟩
    rintro rfl
    exact hc h

/-- The claims that a release leaves. -/
theorem ContextStore.release_claims (r : RunNo) (c : ContextStore) :
    (c.release r).claims = c.claims.filter fun q => decide (q ≠ r) := by
  have hone (k : Context) : (k.release r).claimedRun = k.claimedRun.filter fun q => decide (q ≠ r) := by
    ext q
    simp [Context.release_claimedRun, and_comm]
  simp only [ContextStore.claims, ContextStore.release, ← List.map_cons, List.filterMap_map, List.filter_filterMap,
    Function.comp_def, hone]

theorem ContextStore.release_stacked {r q : RunNo} {c : ContextStore} :
    (∃ k ∈ (c.release r).stack, k.claimedRun = some q) ↔ q ≠ r ∧ ∃ k ∈ c.stack, k.claimedRun = some q := by
  simp only [ContextStore.release, List.mem_map, exists_exists_and_eq_and, Context.release_claimedRun]
  exact ⟨fun ⟨k, hk, hq, hc⟩ => ⟨hq, k, hk, hc⟩, fun ⟨hq, k, hk, hc⟩ => ⟨k, hk, hq, hc⟩⟩

theorem State.abandon_free {s : State} {r : RunNo} (h : s.claim? r = none) (y : Reason) : s.abandon r y = s := by
  unfold State.abandon
  split
  · next x hx =>
    have hg : x.stage.claim? = none := by simpa [State.claim?, hx] using h
    simp [hg]
  · rfl

/-- A store that no claim on a run is named in loses nothing to its release. -/
theorem State.ClaimsAgree.not_named {s : State} (h : s.ClaimsAgree) {r : RunNo} {w v : WandPort} {g : RunState}
    (hr : s.holder r = some (g, w)) (hv : v ≠ w) : r ∉ (s.wand v).claims := by
  rw [ContextStore.mem_claims, h.current, h.stacked, hr]
  simp [Ne.symm hv]

theorem State.ClaimsAgree.abandon {s : State} (h : s.ClaimsAgree) (r : RunNo) (y : Reason) : (s.abandon r y).ClaimsAgree := by
  cases hc : s.claim? r with
  | none => rwa [State.abandon_free hc]
  | some k =>
    obtain ⟨x, hr, hg⟩ := State.claim_some.mp hc
    have hk : x.stage.claim? = some k := Stage.claim_some.mpr hg
    have hother (v : WandPort) (hv : v ≠ k.claimant) : r ∉ (s.wand v).claims := by
      rcases State.holder_of_claim hc with hold | hold <;> exact h.not_named hold hv
    refine h.freed r (fun q => State.holder_abandon s r q y) (fun v q => ?_) (fun v q => ?_) fun v => ?_ <;>
      rw [State.wand_abandon hr hk] <;> split_ifs with hv
    · rw [hv]
      exact Context.release_claimedRun
    · refine ⟨fun hq => ⟨?_, hq⟩, And.right⟩
      rintro rfl
      exact hother v hv (ContextStore.mem_claims.mpr (.inl hq))
    · rw [hv]
      exact ContextStore.release_stacked
    · refine ⟨fun hq => ⟨?_, hq⟩, And.right⟩
      rintro rfl
      exact hother v hv (ContextStore.mem_claims.mpr (.inr hq))
    · rw [hv, ContextStore.release_claims]
      exact List.filter_sublist
    · exact List.Sublist.refl _

/-- The claims that a store names after an abandonment. -/
theorem State.ClaimsAgree.abandon_claims {s : State} (h : s.ClaimsAgree) (r : RunNo) (y : Reason) (w : WandPort) {q : RunNo} :
    q ∈ ((s.abandon r y).wand w).claims ↔ q ≠ r ∧ q ∈ (s.wand w).claims := by
  rw [ContextStore.mem_claims, ContextStore.mem_claims, (h.abandon r y).current, (h.abandon r y).stacked, h.current,
    h.stacked, State.holder_abandon]
  split_ifs with hq <;> simp [hq]

/-! ## A pass ended by RUN_END (R57) -/

theorem stageAfterPass_holder (n m : Nat) : (stageAfterPass n m).holder = none := by
  unfold stageAfterPass
  split <;> rfl

/-- A run whose pass is ended, judged or not, has no holder, and the other runs keep theirs. -/
theorem State.holder_passEnded {s : State} {r : RunNo} {w : WandPort} {k : Claim}
    {g : Stage} (hg : g.holder = none) (last : LastPass) (o : PassOutcome) (q : RunNo) :
    (s.passEnded r w k g last o).holder q = if q = r then none else s.holder q := by
  have ho := (judgePassEnd_moves (s := s) (r := r) (w := w) k.pass).outline
  have hu : (s.passEnded r w k g last o).holder q =
      ((s.judgePassEnd r w k.pass).updateRun r fun x => { x with stage := g, lastPass := last }).holder q := rfl
  rw [hu, ← State.holder_of_outline ho]
  simp only [State.holder, State.run_updateRun]
  split_ifs with hq
  · cases (s.judgePassEnd r w k.pass).run r with
    | none => rfl
    | some z => exact hg
  · rfl

theorem State.passEnded_wand (s : State) (r : RunNo) (w v : WandPort) (k : Claim) (g : Stage) (last : LastPass)
    (o : PassOutcome) : (s.passEnded r w k g last o).wand v =
      if v = w then { s.wand w with current := { (s.wand w).current with claimedRun := none } } else s.wand v := by
  have hj (v : WandPort) : (((s.judgePassEnd r w k.pass).updateRun r fun x =>
      { x with stage := g, lastPass := last }).wand v) = s.wand v := by simp [State.wand]
  refine (State.wand_updateContext _ w v fun c => { c with claimedRun := none }).trans ?_
  rw [hj, hj]

theorem State.ClaimsAgree.passEnded {s : State} (h : s.ClaimsAgree) {r : RunNo} {w : WandPort} {x : LoadedRun} {k : Claim}
    (hr : s.run r = some x) (hx : x.stage = .claimed k) (hk : k.claimant = w) {g : Stage} (hg : g.holder = none)
    (last : LastPass) (o : PassOutcome) : (s.passEnded r w k g last o).ClaimsAgree := by
  have hold : s.holder r = some (.claimed, w) := State.holder_claimed.mpr ⟨x, k, hr, hx, hk⟩
  have hcurrent := h.current.mpr hold
  refine h.freed r (State.holder_passEnded hg last o) (fun v q => ?_) (fun v q => ?_) fun v => ?_
  · rw [State.passEnded_wand]
    split_ifs with hv
    · subst hv
      simp only [hcurrent, Option.some.injEq, false_iff, not_and]
      exact fun hq he => hq he.symm
    · refine ⟨fun hq => ⟨?_, hq⟩, And.right⟩
      rintro rfl
      exact h.not_named hold hv (ContextStore.mem_claims.mpr (.inl hq))
  · have hkeep : (s.passEnded r w k g last o).wand v = s.wand v ∨
        ((s.passEnded r w k g last o).wand v).stack = (s.wand v).stack := by
      rw [State.passEnded_wand]
      split_ifs with hv
      · exact .inr (by rw [hv])
      · exact .inl rfl
    have hstack : ((s.passEnded r w k g last o).wand v).stack = (s.wand v).stack := hkeep.elim (congrArg _) id
    rw [hstack]
    refine ⟨fun hq => ⟨?_, hq⟩, And.right⟩
    rintro rfl
    have := h.stacked.mp hq
    rw [hold] at this
    cases this
  · rw [State.passEnded_wand]
    split_ifs with hv
    · subst hv
      simp only [ContextStore.claims_eq, hcurrent, List.filterMap_cons, id]
      exact List.sublist_cons_self _ _
    · exact List.Sublist.refl _

end Sys2Proof.Machine
end

section
/-! PROOFS. Claims, contexts and modes agree, continued: the passes that begin, contexts set aside and restored, and every
other change; and the agreement kept by every step. -/
namespace Sys2Proof.Machine

/-! ## Holders after each change of a run -/

theorem State.holder_updateRun (s : State) (r q : RunNo) (f : LoadedRun → LoadedRun) :
    (s.updateRun r f).holder q = if q = r then (s.run r).bind fun x => (f x).stage.holder else s.holder q := by
  simp only [State.holder, State.run_updateRun]
  split_ifs
  · cases s.run r <;> rfl
  · rfl

/-- A change of one run that keeps its holder keeps all holders. -/
theorem State.holder_updateRun_same (s : State) (r : RunNo) {f : LoadedRun → LoadedRun}
    (hf : ∀ x, (f x).stage.holder = x.stage.holder) : (s.updateRun r f).holder = s.holder := by
  funext q
  rw [State.holder_updateRun]
  split_ifs with hq
  · simp only [hf, hq]
    rfl
  · rfl

/-- A run that no port holds is written as one that no port holds. -/
theorem State.holder_setRun_free {s : State} {r : RunNo} {x : LoadedRun} (hr : s.holder r = none)
    (hx : x.stage.claim? = none) : (s.setRun r x).holder = s.holder := by
  funext q
  rw [State.holder_setRun]
  split_ifs with hq
  · rw [hq, hr, Stage.holder_eq_none.mpr hx]
  · rfl

theorem State.holder_free {s : State} {r : RunNo} {x : LoadedRun} (hr : s.run r = some x)
    (hx : x.stage.claim? = none) : s.holder r = none := by
  rw [State.holder_some hr, Stage.holder_eq_none.mpr hx]

theorem State.run_unload (s : State) (r q : RunNo) : (s.unload r).run q = if q = r then none else s.run q :=
  tableGet_erase r q s.runs

theorem State.holder_unload {s : State} {r : RunNo} (hr : s.holder r = none) : (s.unload r).holder = s.holder := by
  funext q
  simp only [State.holder, State.run_unload]
  split_ifs with hq
  · rw [hq]
    exact hr.symm
  · rfl

/-- The runs after every run is changed by itself. -/
theorem State.run_mapRuns (s : State) (f : LoadedRun → LoadedRun) (q : RunNo) :
    ({ s with runs := s.runs.map fun x => (x.1, f x.2) } : State).run q = (s.run q).map f :=
  tableGet_map (fun x => f x.2) q s.runs

theorem State.holder_mapRuns (s : State) (f : LoadedRun → LoadedRun) (q : RunNo) :
    ({ s with runs := s.runs.map fun x => (x.1, f x.2) } : State).holder q = (s.run q).bind fun x => (f x).stage.holder := by
  rw [State.holder, State.run_mapRuns]
  cases s.run q <;> rfl

/-- A run as an advance of the clock in COUNTING leaves it (R156). -/
def LoadedRun.ticked (x : LoadedRun) : LoadedRun := { x with stage := tickStage x.stage }

theorem State.tickTimers_runs (s : State) : s.tickTimers.runs = s.runs.map fun x => (x.1, x.2.ticked) := rfl

theorem State.run_tickTimers (s : State) (q : RunNo) : s.tickTimers.run q = (s.run q).map LoadedRun.ticked :=
  State.run_mapRuns s LoadedRun.ticked q

theorem tickStage_holder (g : Stage) : (tickStage g).holder = g.holder := by cases g <;> rfl

theorem State.holder_tickTimers (s : State) : s.tickTimers.holder = s.holder := by
  funext q
  refine (State.holder_mapRuns s LoadedRun.ticked q).trans ?_
  simp only [LoadedRun.ticked, tickStage_holder]
  rfl

theorem State.holder_advance (s : State) : s.advance.holder = s.holder := by
  unfold State.advance
  split
  · exact State.holder_tickTimers _
  all_goals rfl

theorem State.holder_completeClose {s : State} (h : ∀ r, s.holder r = none) (r : RunNo) : s.completeClose.holder r = none := by
  unfold State.completeClose
  split
  · refine (congrFun (State.holder_of_runs (by simp)) r).trans
      ((State.holder_mapRuns s LoadedRun.close r).trans ?_)
    cases s.run r <;> rfl
  · exact h r

/-! ## The mode and the operation in flight -/

theorem State.ModeAgrees.congr {s t : State} (h : s.ModeAgrees) (hm : t.mode = s.mode) (ho : t.operation = s.operation)
    (hh : ∀ r, s.holder r = none → t.holder r = none) : t.ModeAgrees :=
  modeAgrees_of (by rw [hm, ho, h.operation]) fun r hr => hm ▸ h.of_holder fun hn => hr (hh r hn)

/-- The modes from which a count is opened, paused or continued have no operation in flight. -/
theorem operation_of_modeChange {c : Instr} {old m : Mode} (h : modeChange c old m) (hm : m = .counting ∨ m = .paused) :
    old.operation = m.operation := by
  cases c <;> simp only [modeChange] at h <;> obtain ⟨ho, hn⟩ := h
  case start => rw [ho, hn]; rfl
  case pause => rw [ho, hn]; rfl
  case continueCount => rw [ho, hn]; rfl
  all_goals rw [hn] at hm; simp at hm

/-! ## A pass begins (R50) -/

theorem State.ClaimsAgree.not_claimed {s : State} (h : s.ClaimsAgree) {r : RunNo} (hr : s.holder r = none) (v : WandPort) :
    r ∉ (s.wand v).claims := by
  rw [ContextStore.mem_claims, h.current, h.stacked, hr]
  simp

theorem State.holder_beginPass (s : State) (w : WandPort) (i : ShelfIndex) (r q : RunNo) (x : LoadedRun) :
    (s.beginPass w i r x).holder q = if q = r then some (.claimed, w) else s.holder q :=
  State.holder_setRun s r q { x with
    passCount := x.passCount + 1
    stage := .claimed { claimant := w, timer := s.config.claimInterval,
                        pass := PassRecord.begin (s.passSerial + 1) (s.wand w).current.direction } }

theorem State.wand_beginPass (s : State) (w v : WandPort) (i : ShelfIndex) (r : RunNo) (x : LoadedRun) :
    (s.beginPass w i r x).wand v = if v = w then
      { s.wand w with current := { (s.wand w).current with cursor := some i, claimedRun := some r } } else s.wand v :=
  State.wand_updateContext _ w v fun c => { c with cursor := some i, claimedRun := some r }

theorem State.ClaimsAgree.beginPass {s : State} (h : s.ClaimsAgree) {w : WandPort} {r : RunNo} (i : ShelfIndex)
    (x : LoadedRun) (hr : s.holder r = none) (hw : (s.wand w).current.claimedRun = none) :
    (s.beginPass w i r x).ClaimsAgree := by
  have hfree (v : WandPort) : r ∉ (s.wand v).claims := h.not_claimed hr v
  simp only [ContextStore.mem_claims, not_or] at hfree
  have hcurrent (q : RunNo) : s.holder q ≠ some (.claimed, w) := fun hq => absurd (h.current.mpr hq) (by simp [hw])
  refine claimsAgree_of (fun v q => ?_) (fun v q => ?_) fun v => ?_
  · rw [State.wand_beginPass, State.holder_beginPass]
    by_cases hv : v = w <;> by_cases hq : q = r
    · simp [hv, hq]
    · simp [hv, hq, Ne.symm hq, hcurrent]
    · simp [hv, hq, (hfree v).1, Ne.symm hv]
    · simp [hv, hq, h.current]
  · have hstack : ((s.beginPass w i r x).wand v).stack = (s.wand v).stack := by
      rw [State.wand_beginPass]
      split_ifs with hv
      · rw [hv]
      · rfl
    rw [hstack, State.holder_beginPass]
    split_ifs with hq
    · rw [hq]
      simp only [Option.some.injEq, Prod.mk.injEq, reduceCtorEq, false_and, iff_false]
      exact (hfree v).2
    · exact h.stacked
  · rw [State.wand_beginPass]
    split_ifs with hv
    · have hold := h.once w
      rw [ContextStore.claims_eq, hw] at hold
      rw [ContextStore.claims_eq]
      refine List.nodup_cons.mpr ⟨?_, hold⟩
      simpa using (hfree w).2
    · exact h.once v

/-! ## A context set aside and restored (R130, R133) -/

theorem holdStage_holder (g : Stage) : (holdStage g).holder = g.holder.map fun x => (.held, x.2) := by cases g <;> rfl

theorem resumeStage_holder (n : Nat) (g : Stage) : (resumeStage n g).holder = g.holder.map fun x => (.claimed, x.2) := by
  cases g <;> rfl

theorem State.wand_holdRun (s : State) (a : Option RunNo) (v : WandPort) : (s.holdRun a).wand v = s.wand v := by
  cases a <;> simp [State.holdRun, State.wand]

theorem State.wand_resumeRun (s : State) (a : Option RunNo) (v : WandPort) : (s.resumeRun a).wand v = s.wand v := by
  cases a <;> simp [State.resumeRun, State.wand]

theorem State.wand_diverted (s : State) (v u : WandPort) (context : Prepared) :
    (s.diverted v context).wand u = if u = v then
      { current := context.context, stack := (s.wand v).current :: (s.wand v).stack, slot := none } else s.wand u :=
  (State.wand_holdRun _ _ u).trans (State.wand_setWand s v u _)

/-- The run that the context set aside claims is held. -/
theorem State.ClaimsAgree.holder_diverted {s : State} (h : s.ClaimsAgree) (v : WandPort) (context : Prepared) (q : RunNo) :
    (s.diverted v context).holder q =
      if (s.wand v).current.claimedRun = some q then some (.held, v) else s.holder q := by
  have hu : (s.diverted v context).holder q = ((s.setWand v
    { current := context.context, stack := (s.wand v).current :: (s.wand v).stack, slot := none }).holdRun
      (s.wand v).current.claimedRun).holder q := rfl
  rw [hu]
  cases ha : (s.wand v).current.claimedRun with
  | none => rfl
  | some r =>
    refine (State.holder_updateRun _ r q _).trans ?_
    by_cases hq : q = r
    · subst hq
      obtain ⟨x, k, hx, hk, hw⟩ := State.holder_claimed.mp (h.current.mp ha)
      refine (if_pos rfl).trans (Eq.trans ?_ (if_pos rfl).symm)
      exact (congrArg (Option.bind · _) hx).trans (by simp [hk, holdStage, Stage.holder, hw])
    · rw [if_neg hq, if_neg (by simpa using Ne.symm hq)]
      rfl

theorem State.ClaimsAgree.diverted {s : State} (h : s.ClaimsAgree) (v : WandPort) (context : Prepared) :
    (s.diverted v context).ClaimsAgree := by
  have haside (q : RunNo) : (s.wand v).current.claimedRun = some q → s.holder q = some (.claimed, v) := h.current.mp
  refine claimsAgree_of (fun u q => ?_) (fun u q => ?_) fun u => ?_
  · rw [State.wand_diverted, h.holder_diverted]
    by_cases hu : u = v <;> by_cases hq : (s.wand v).current.claimedRun = some q
    · simp [hu, hq, Prepared.context]
    · simp [hu, hq, Prepared.context, ← h.current]
    · simp [hu, hq, h.current, haside q hq, Ne.symm hu]
    · simp [hu, hq, h.current]
  · rw [State.wand_diverted, h.holder_diverted]
    by_cases hu : u = v <;> by_cases hq : (s.wand v).current.claimedRun = some q
    · simp [hu, hq]
    · simp [hu, hq, ← h.stacked]
    · simp [hu, hq, h.stacked, haside q hq, Ne.symm hu]
    · simp [hu, hq, h.stacked]
  · rw [State.wand_diverted]
    split_ifs with hu
    · exact h.once v
    · exact h.once u

theorem State.wand_resumed (s : State) (w u : WandPort) (top : Context) (rest : List Context) :
    (s.resumed w top rest).wand u = if u = w then { s.wand w with current := top, stack := rest } else s.wand u :=
  (State.wand_resumeRun _ _ u).trans (State.wand_setWand s w u _)

/-- The run that the restored context names is claimed again. -/
theorem State.ClaimsAgree.holder_resumed {s : State} (h : s.ClaimsAgree) {w : WandPort} {top : Context}
    {rest : List Context} (hstack : (s.wand w).stack = top :: rest) (q : RunNo) :
    (s.resumed w top rest).holder q = if top.claimedRun = some q then some (.claimed, w) else s.holder q := by
  have hmem : top ∈ (s.wand w).stack := by simp [hstack]
  unfold State.resumed
  cases ha : top.claimedRun with
  | none => rfl
  | some r =>
    refine (State.holder_updateRun _ r q _).trans ?_
    by_cases hq : q = r
    · subst hq
      obtain ⟨x, k, hx, hk, hw⟩ := State.holder_held.mp (h.stacked.mp ⟨top, hmem, ha⟩)
      refine (if_pos rfl).trans (Eq.trans ?_ (if_pos rfl).symm)
      exact (congrArg (Option.bind · _) hx).trans (by simp [hk, resumeStage, Stage.holder, hw])
    · rw [if_neg hq, if_neg (by simpa using Ne.symm hq)]
      rfl

theorem State.ClaimsAgree.resumed {s : State} (h : s.ClaimsAgree) {w : WandPort} {top : Context} {rest : List Context}
    (hfree : (s.wand w).current.claimedRun = none) (hstack : (s.wand w).stack = top :: rest) :
    (s.resumed w top rest).ClaimsAgree := by
  have hone := h.once w
  rw [ContextStore.claims_eq, hfree, hstack] at hone
  have htop (q : RunNo) (hq : top.claimedRun = some q) : s.holder q = some (.held, w) :=
    h.stacked.mp ⟨top, by simp [hstack], hq⟩
  have hcurrent (q : RunNo) : s.holder q ≠ some (.claimed, w) := fun hq => absurd (h.current.mpr hq) (by simp [hfree])
  refine claimsAgree_of (fun u q => ?_) (fun u q => ?_) fun u => ?_
  · rw [State.wand_resumed, h.holder_resumed hstack]
    by_cases hu : u = w <;> by_cases hq : top.claimedRun = some q
    · simp [hu, hq]
    · simp [hu, hq, hcurrent]
    · simp [hu, hq, h.current, htop q hq, Ne.symm hu]
    · simp [hu, hq, h.current]
  · rw [State.wand_resumed, h.holder_resumed hstack]
    by_cases hu : u = w <;> by_cases hq : top.claimedRun = some q
    · simp only [hu, hq, if_true, Option.some.injEq, Prod.mk.injEq, reduceCtorEq, false_and, iff_false]
      rintro ⟨k, hk, hkq⟩
      simp only [List.map_cons, List.filterMap_cons, id, hq, List.nodup_cons, List.mem_filterMap, List.mem_map,
        exists_exists_and_eq_and, not_exists, not_and] at hone
      exact hone.1 k hk hkq
    · simp [hu, hq, ← h.stacked, hstack]
    · simp [hu, hq, h.stacked, htop q hq, Ne.symm hu]
    · simp [hu, hq, h.stacked]
  · rw [State.wand_resumed]
    split_ifs with hu
    · rw [ContextStore.claims_eq]
      exact hone
    · exact h.once u

/-! ## A wand port reset (R137) -/

/-- Abandoning runs one after another keeps what each abandonment keeps. -/
theorem State.foldl_abandon_keeps {P : State → Prop} {y : Reason} (hP : ∀ s r, P s → P (s.abandon r y)) (l : List RunNo)
    {s : State} (h : P s) : P (l.foldl (fun s r => s.abandon r y) s) := by
  induction l generalizing s with
  | nil => exact h
  | cons r l ih => exact ih (hP s r h)

theorem State.ClaimsAgree.foldl_abandon_claims {s : State} (h : s.ClaimsAgree) (y : Reason) (l : List RunNo) (w : WandPort)
    {q : RunNo} : q ∈ ((l.foldl (fun s r => s.abandon r y) s).wand w).claims ↔ q ∉ l ∧ q ∈ (s.wand w).claims := by
  induction l generalizing s with
  | nil => simp
  | cons r l ih => rw [List.foldl_cons, ih (h.abandon r y), h.abandon_claims, List.mem_cons, not_or, and_left_comm, and_assoc]

/-- A store that names no claim may be replaced by the reset one. -/
theorem State.ClaimsAgree.setDefault {s : State} (h : s.ClaimsAgree) {w : WandPort} (hw : ∀ q, q ∉ (s.wand w).claims) :
    (s.setWand w .default).ClaimsAgree := by
  have hfree (q : RunNo) := hw q
  simp only [ContextStore.mem_claims, not_or] at hfree
  refine claimsAgree_of (fun v q => ?_) (fun v q => ?_) fun v => ?_ <;> rw [State.wand_setWand] <;> split_ifs with hv
  · refine iff_of_false nofun ?_
    subst hv
    exact fun hq => (hfree q).1 (h.current.mpr hq)
  · exact h.current
  · refine iff_of_false (by simp [ContextStore.default]) ?_
    subst hv
    exact fun hq => (hfree q).2 (h.stacked.mpr hq)
  · exact h.stacked
  · exact List.nodup_nil
  · exact h.once v

theorem State.ClaimsAgree.resetWand {s : State} (h : s.ClaimsAgree) (w : WandPort) : (s.resetWand w).ClaimsAgree := by
  have hfold : ((s.wand w).claims.foldl (fun s r => s.abandon r .portReset) s).ClaimsAgree :=
    State.foldl_abandon_keeps (P := State.ClaimsAgree) (fun _ r ht => ht.abandon r _) _ h
  refine hfold.setDefault fun q => ?_
  rw [h.foldl_abandon_claims]
  exact fun hq => hq.1 hq.2

theorem State.ModeAgrees.abandon {s : State} (h : s.ModeAgrees) (r : RunNo) (y : Reason) : (s.abandon r y).ModeAgrees :=
  h.congr (by simp) (by simp) fun q hq => by rw [State.holder_abandon, hq, ite_self]

theorem State.ModeAgrees.resetWand {s : State} (h : s.ModeAgrees) (w : WandPort) : (s.resetWand w).ModeAgrees := by
  have hfold : ((s.wand w).claims.foldl (fun s r => s.abandon r .portReset) s).ModeAgrees :=
    State.foldl_abandon_keeps (P := State.ModeAgrees) (fun _ r ht => ht.abandon r _) _ h
  exact hfold.congr rfl rfl fun _ hr => hr

/-! ## Every step -/

/-- What is kept: the claims agree with the contexts, and the mode with both. -/
def State.ControlAgrees (s : State) : Prop := s.ClaimsAgree ∧ s.ModeAgrees

theorem State.ControlAgrees.congr {s t : State} (h : s.ControlAgrees) (hw : t.wands = s.wands) (hh : t.holder = s.holder)
    (hm : t.mode = s.mode) (ho : t.operation = s.operation) : t.ControlAgrees :=
  ⟨h.1.of_wands hw hh, h.2.congr hm ho fun r hr => by rw [hh, hr]⟩

theorem State.ControlAgrees.moves {s t : State} {r : RunNo} {w : WandPort} (h : s.ControlAgrees) (hm : Moves r w s t) :
    t.ControlAgrees := h.congr hm.wands (State.holder_of_outline hm.outline) hm.mode hm.operation

theorem State.ControlAgrees.abandon {s : State} (h : s.ControlAgrees) (r : RunNo) (y : Reason) :
    (s.abandon r y).ControlAgrees := ⟨h.1.abandon r y, h.2.abandon r y⟩

theorem State.ControlAgrees.completeClose {s : State} (h : s.ControlAgrees) : s.completeClose.ControlAgrees := by
  by_cases hm : s.mode = .closing
  · have hnone : ∀ r, s.holder r = none := h.2.no_holder (by simp [hm])
    have hmode : s.completeClose.mode = .closed := by simp [State.completeClose, hm]
    have hop : s.completeClose.operation = none := by simp [State.completeClose, hm]
    exact ⟨h.1.of_wands (by simp [State.completeClose, hm]) (funext fun r => by rw [State.holder_completeClose hnone, hnone]),
      modeAgrees_of (by rw [hop, hmode]; rfl) fun r hr => absurd (State.holder_completeClose hnone r) hr⟩
  · rwa [State.completeClose, if_neg hm]

theorem State.ControlAgrees.completeWipe {s : State} (h : s.ControlAgrees) : s.completeWipe.ControlAgrees := by
  by_cases hm : s.mode = .wiping
  · have hnone : ∀ r, s.holder r = none := h.2.no_holder (by simp [hm])
    have hmode : s.completeWipe.mode = .halted := by simp [State.completeWipe, hm]
    have hop : s.completeWipe.operation = none := by simp [State.completeWipe, hm]
    have hh : s.completeWipe.holder = s.holder := State.holder_of_runs (by simp [State.completeWipe, hm])
    exact ⟨h.1.of_wands (by simp [State.completeWipe, hm]) hh,
      modeAgrees_of (by rw [hop, hmode]; rfl) fun r hr => absurd (by rw [hh, hnone]) hr⟩
  · rwa [State.completeWipe, if_neg hm]

theorem State.ControlAgrees.setRun_free {s : State} {r : RunNo} {x : LoadedRun} (h : s.ControlAgrees)
    (hr : s.holder r = none) (hx : x.stage.claim? = none) : (s.setRun r x).ControlAgrees :=
  h.congr rfl (State.holder_setRun_free hr hx) rfl rfl

theorem State.ControlAgrees.wiped (s : State) : s.wiped.ControlAgrees := by
  have hnone (r : RunNo) : s.wiped.holder r = none := rfl
  have hclaims (w : WandPort) : (s.wiped.wand w) = (s.wand w).wipe := WandMap.get_map _ _ w
  refine ⟨claimsAgree_of (fun w r => ?_) (fun w r => ?_) fun w => ?_, modeAgrees_of rfl fun r hr => absurd (hnone r) hr⟩
  · rw [hclaims, hnone]
    simp [ContextStore.wipe]
  · rw [hclaims, hnone]
    simp [ContextStore.wipe]
  · rw [hclaims]
    exact List.nodup_nil

theorem State.ControlAgrees.change {s t : State} {c : Instr} (h : s.ControlAgrees) (hc : Change s c t) :
    t.ControlAgrees := by
  cases hc with
  | none => exact h
  | configure => exact h.congr rfl rfl rfl rfl
  | enter c m hm hopen =>
    exact ⟨h.1.of_wands rfl rfl, modeAgrees_of (h.2.operation.trans (operation_of_modeChange hm hopen)) fun _ _ => hopen⟩
  | close p hm hfree =>
    have hnone (r : RunNo) : s.holder r = none := by
      cases hr : s.run r with
      | none => simp [State.holder, hr]
      | some x => exact State.holder_free hr (hfree _ (tableGet_mem hr))
    exact ⟨h.1.of_wands rfl rfl, modeAgrees_of rfl fun r hr => absurd (hnone r) hr⟩
  | wipe => exact State.ControlAgrees.wiped s
  | deviceReset => exact h.congr rfl rfl rfl rfl
  | loadRun c r lo hi length hr hm => exact h.setRun_free (by simp [State.holder, hr]) rfl
  | loadItem c r x tag key st hr hx hcheck =>
    exact h.congr (by simp [State.withItem]) (State.holder_updateRun_same _ r fun _ => rfl) (by simp [State.withItem])
      (by simp [State.withItem])
  | loadDone c r x hr hx => exact h.setRun_free (State.holder_free hr (by rw [hx]; rfl)) rfl
  | unload c r x hr hx =>
    have hfree : x.stage.claim? = none := by rcases hx with hx | hx <;> rw [hx] <;> rfl
    exact h.congr rfl (State.holder_unload (State.holder_free hr hfree)) rfl rfl
  | closeRun c r x hr hx => exact h.setRun_free (State.holder_free hr hx) rfl
  | resetPasses c r x hr hx => exact h.setRun_free (State.holder_free hr hx) rfl
  | forceRelease p run r =>
    unfold State.releaseClaim
    split
    · exact (h.abandon r .forced).congr rfl rfl rfl rfl
    · exact h
  | readRecord => exact h.congr rfl rfl rfl rfl
  | setDivert p w a b d v context =>
    have hstore (u : WandPort) : (s.setWand v { s.wand v with slot := some context }).wand u = s.wand u ∨
        u = v ∧ (s.setWand v { s.wand v with slot := some context }).wand u = { s.wand v with slot := some context } := by
      rw [State.wand_setWand]
      split_ifs with hu
      · exact .inr ⟨hu, rfl⟩
      · exact .inl rfl
    refine ⟨h.1.congr (fun u => ?_) (fun u => ?_) rfl, h.2.congr rfl rfl fun _ hr => hr⟩ <;>
      rcases hstore u with hu | ⟨rfl, hu⟩ <;> rw [hu]
  | divert p w v context hv =>
    refine ⟨h.1.diverted v context, h.2.congr (by simp [State.diverted]) (by simp [State.diverted]) fun r hr => ?_⟩
    rw [h.1.holder_diverted, if_neg fun hc => by rw [h.1.current.mp hc] at hr; cases hr]
    exact hr
  | window c p k payload w f hc hp hf =>
    refine ⟨h.1.congr (fun u => ?_) (fun u => ?_) rfl, h.2.congr rfl rfl fun _ hr => hr⟩ <;>
      rw [State.wand_updateContext] <;> split_ifs with hu
    · rw [hu, hf]
    · rfl
    · rw [hu]
    · rfl
  | claim c p w i r x hc hp hm hr hx hfree hserial =>
    have hx' : x.stage.claim? = none := by rcases hx with hx | hx <;> rw [hx] <;> rfl
    exact ⟨h.1.beginPass i x (State.holder_free hr hx') hfree,
      modeAgrees_of h.2.operation fun _ _ => .inl hm⟩
  | sight p xs w r hp hr => exact h.moves (sightAll_moves s r w xs)
  | runEnd p run w r x k g last o hp hr hx hk hg =>
    have hg' : g.holder = none := by
      rcases hg with rfl | rfl
      · rfl
      · exact stageAfterPass_holder _ _
    refine ⟨h.1.passEnded hr hx hk hg' last o, h.2.congr ?_ ?_ fun q hq => ?_⟩
    · simp [State.passEnded]
    · simp [State.passEnded]
    · rw [State.holder_passEnded hg', hq, ite_self]
  | runAbandon p run w r x k hp hr hx hk => exact h.abandon r _
  | resume p w top rest hp hfree hstack =>
    have hmem : top ∈ (s.wand w).stack := by simp [hstack]
    refine ⟨h.1.resumed hfree hstack, h.2.congr (by simp [State.resumed]) (by simp [State.resumed]) fun r hr => ?_⟩
    rw [h.1.holder_resumed hstack, if_neg fun hc => ?_]
    · exact hr
    · rw [h.1.stacked.mp ⟨top, hmem, hc⟩] at hr
      cases hr
  | setMask => exact h.congr rfl rfl rfl rfl
  | loan p tag i e hl => exact h.moves (lent_moves s 0 .lp0 i e)
  | takeBack p tag i e hl => exact h.moves (takenBack_moves s 0 .lp0 i e)

theorem State.reset_wand (w : WandPort) : State.reset.wand w = .default := by cases w <;> rfl

theorem State.ControlAgrees.reset : State.reset.ControlAgrees := by
  have hnone (r : RunNo) : State.reset.holder r = none := rfl
  refine ⟨claimsAgree_of (fun w r => ?_) (fun w r => ?_) fun w => ?_, modeAgrees_of rfl fun r hr => absurd (hnone r) hr⟩ <;>
    rw [State.reset_wand]
  · exact iff_of_false nofun nofun
  · exact iff_of_false nofun nofun
  · exact List.nodup_nil

/-- Claims, contexts and modes agree after every step where they agreed before it. -/
theorem controlAgrees_kept : RecordInvariant State.ControlAgrees where
  records s t e h := h.congr (congrArg State.wands e :) (State.holder_of_runs (congrArg State.runs e :)) (congrArg State.mode e :)
    (congrArg State.operation e :)
  reset := State.ControlAgrees.reset
  abandon s r y h := h.abandon r y
  advance s h := h.congr (by simp) s.holder_advance (by simp) (by simp)
  close s h := h.completeClose
  wipe s h := h.completeWipe
  wand s w h := ⟨h.1.resetWand w, h.2.resetWand w⟩
  change s c t hc h := h.change hc

end Sys2Proof.Machine
end

section
/-! PROOFS. The pass counts and the configuration (R42, R44, R155): what they ask of one run, and that every step keeps it. -/
namespace Sys2Proof.Machine

/-- What the pass counts ask of one run, under a pass limit and in a mode. -/
structure LoadedRun.CountFits (limit : Nat) (m : Mode) (x : LoadedRun) : Prop where
  atMost : x.passCount ≤ limit
  fresh : x.stage.state = .loading ∨ x.stage.state = .ready → x.passCount = 0
  rescan : x.stage.state = .rescan → x.passCount < limit
  halted : m = .halted → x.passCount = 0
  wiping : m ≠ .wiping

namespace LoadedRun.CountFits
variable {limit : Nat} {m : Mode} {x y : LoadedRun}

/-- The pass count and the state of the run decide. -/
theorem same (h : x.CountFits limit m) (hp : y.passCount = x.passCount) (hs : y.stage.state = x.stage.state) :
    y.CountFits limit m :=
  ⟨hp ▸ h.atMost, fun hy => hp ▸ h.fresh (hs ▸ hy), fun hy => hp ▸ h.rescan (hs ▸ hy), fun hm => hp ▸ h.halted hm, h.wiping⟩

/-- A state that asks nothing of the count may follow any other. -/
theorem restage (h : x.CountFits limit m) (hp : y.passCount = x.passCount)
    (hs : y.stage.state ≠ .loading ∧ y.stage.state ≠ .ready ∧ y.stage.state ≠ .rescan) : y.CountFits limit m :=
  ⟨hp ▸ h.atMost, fun hy => absurd hy (not_or.mpr ⟨hs.1, hs.2.1⟩), fun hy => absurd hy hs.2.2, fun hm => hp ▸ h.halted hm,
    h.wiping⟩

/-- A run that has had no pass fits every state. -/
theorem zero (hp : y.passCount = 0) (hl : 1 ≤ limit) (hm : m ≠ .wiping) : y.CountFits limit m :=
  ⟨by omega, fun _ => hp, fun _ => by omega, fun _ => hp, hm⟩

theorem afterPass (h : x.CountFits limit m) (hp : y.passCount = x.passCount)
    (hs : y.stage = stageAfterPass x.passCount limit) : y.CountFits limit m := by
  by_cases hx : x.passCount < limit
  · have hy : y.stage = .rescan := by simpa [stageAfterPass, hx] using hs
    refine ⟨hp ▸ h.atMost, ?_, fun _ => hp ▸ hx, fun hm => hp ▸ h.halted hm, h.wiping⟩
    rw [hy]
    rintro (h | h) <;> cases h
  · have hy : y.stage = .review := by simpa [stageAfterPass, hx] using hs
    exact h.restage hp (by rw [hy]; exact ⟨nofun, nofun, nofun⟩)

theorem mode (h : x.CountFits limit m) {m' : Mode} (hh : m' ≠ .halted) (hw : m' ≠ .wiping) : x.CountFits limit m' :=
  ⟨h.atMost, h.fresh, h.rescan, fun hm => absurd hm hh, hw⟩

end LoadedRun.CountFits

/-- The configuration is in range and every run's count fits. -/
structure State.CountsFit (s : State) : Prop where
  params : paramsInRange s.config
  runs : ∀ r x, s.run r = some x → x.CountFits s.config.passLimit s.mode

/-- A table that reads nothing anywhere is empty. -/
theorem State.runs_nil {s : State} (h : ∀ r, s.run r = none) : s.runs = [] := by
  cases hr : s.runs with
  | nil => rfl
  | cons x xs =>
    have := h x.1
    simp [State.run, hr, tableGet] at this

theorem State.passCountsAgree_iff {s : State} : s.PassCountsAgree ↔ s.CountsFit := by
  constructor
  · intro h
    refine ⟨h.params, fun r x hx => ⟨h.limit r x hx, fun hs => h.fresh r x hx ?_, fun hs => h.rescan r x hx ?_,
      fun hm => h.halted hm r x hx, fun hm => ?_⟩⟩
    · exact hs.imp Stage.state_loading.mp Stage.state_ready.mp
    · exact Stage.state_rescan.mp hs
    · simp [State.run, h.wiping hm, tableGet] at hx
  · intro h
    refine ⟨h.params, fun r x hx => (h.runs r x hx).atMost, fun r x hx hs => (h.runs r x hx).fresh ?_,
      fun r x hx hs => (h.runs r x hx).rescan (Stage.state_rescan.mpr hs), fun hm r x hx => (h.runs r x hx).halted hm,
      fun hm => State.runs_nil fun r => ?_⟩
    · exact hs.imp Stage.state_loading.mpr Stage.state_ready.mpr
    · by_contra hr
      obtain ⟨x, hx⟩ := Option.ne_none_iff_exists'.mp hr
      exact (h.runs r x hx).wiping hm

namespace State.CountsFit
variable {s t : State}

theorem one_le (h : s.CountsFit) : 1 ≤ s.config.passLimit := h.params.2.2.2.2.1

theorem of_runs (h : s.CountsFit) (hc : t.config = s.config) (hm : t.mode = s.mode)
    (hr : ∀ r x, t.run r = some x → x.CountFits s.config.passLimit s.mode) : t.CountsFit :=
  ⟨hc ▸ h.params, fun r x hx => by rw [hc, hm]; exact hr r x hx⟩

theorem congr (h : s.CountsFit) (hc : t.config = s.config) (hm : t.mode = s.mode) (hr : t.run = s.run) : t.CountsFit :=
  h.of_runs hc hm fun r x hx => h.runs r x (hr ▸ hx)

theorem setRun (h : s.CountsFit) (r : RunNo) {x : LoadedRun} (hx : x.CountFits s.config.passLimit s.mode) :
    (s.setRun r x).CountsFit := h.of_runs rfl rfl fun q y hy => by
  rw [State.run_setRun] at hy
  split_ifs at hy
  · cases hy
    exact hx
  · exact h.runs q y hy

theorem updateRun (h : s.CountsFit) (r : RunNo) {f : LoadedRun → LoadedRun}
    (hf : ∀ x, s.run r = some x → x.CountFits s.config.passLimit s.mode → (f x).CountFits s.config.passLimit s.mode) :
    (s.updateRun r f).CountsFit := by
  cases hr : s.run r with
  | none => rwa [State.updateRun_none hr]
  | some x =>
    rw [State.updateRun_some hr]
    exact h.setRun r (hf x hr (h.runs r x hr))

theorem moves {r : RunNo} {w : WandPort} (h : s.CountsFit) (hm : Moves r w s t) : t.CountsFit :=
  h.of_runs hm.config hm.mode fun q x hx => by
    obtain ⟨y, hy, he⟩ := run_of_outline hm.outline hx
    exact (h.runs q y hy).same (outline_passCount he) (outline_state he)

theorem abandon (h : s.CountsFit) (r : RunNo) (y : Reason) : (s.abandon r y).CountsFit := by
  cases hc : s.claim? r with
  | none => rwa [State.abandon_free hc]
  | some k =>
    obtain ⟨x, hr, hg⟩ := State.claim_some.mp hc
    refine h.of_runs (by simp) (by simp) fun q z hz => ?_
    rw [State.run_abandon hr (Stage.claim_some.mpr hg)] at hz
    split_ifs at hz with hq
    · cases hz
      exact (h.runs r x hr).afterPass rfl rfl
    · exact h.runs q z hz

theorem releaseClaim (h : s.CountsFit) (r : RunNo) (y : Reason) : (s.releaseClaim r y).CountsFit := by
  unfold State.releaseClaim
  split
  · exact (h.abandon r y).congr rfl rfl rfl
  · exact h

theorem mode (h : s.CountsFit) (hc : t.config = s.config) (hr : t.run = s.run) (hh : t.mode ≠ .halted)
    (hw : t.mode ≠ .wiping) : t.CountsFit :=
  ⟨hc ▸ h.params, fun r x hx => by rw [hc]; exact (h.runs r x (hr ▸ hx)).mode hh hw⟩

/-- A part with its configuration in range and no run loaded. -/
theorem unloaded (hp : paramsInRange s.config) (hr : ∀ r, s.run r = none) : s.CountsFit :=
  ⟨hp, fun r x hx => by rw [hr] at hx; cases hx⟩

theorem passEnded (h : s.CountsFit) {r : RunNo} (w : WandPort) {x : LoadedRun} (k : Claim) {g : Stage}
    (hr : s.run r = some x) (hg : g = .checked ∨ g = stageAfterPass x.passCount s.config.passLimit) (last : LastPass)
    (o : PassOutcome) : (s.passEnded r w k g last o).CountsFit := by
  have hj := judgePassEnd_moves (s := s) (r := r) (w := w) k.pass
  have hmode := hj.mode
  have hconfig := hj.config
  have hjudged : ((s.judgePassEnd r w k.pass).updateRun r fun x => { x with stage := g, lastPass := last }).CountsFit := by
    refine (h.moves hj).updateRun r fun z hz hfit => ?_
    obtain ⟨y, hy, he⟩ := run_of_outline hj.outline hz
    cases hr.symm.trans hy
    rw [hmode, hconfig] at hfit ⊢
    rcases hg with rfl | rfl
    · exact hfit.restage rfl ⟨nofun, nofun, nofun⟩
    · exact hfit.afterPass rfl (by rw [outline_passCount he])
  exact hjudged.congr rfl rfl rfl

theorem completeClose (h : s.CountsFit) : s.completeClose.CountsFit := by
  by_cases hm : s.mode = .closing
  · have hrun (q : RunNo) : s.completeClose.run q = (s.run q).map LoadedRun.close := by
      refine Eq.trans ?_ (State.run_mapRuns s LoadedRun.close q)
      simp [State.completeClose, hm, State.run]
    refine ⟨by simpa [State.completeClose, hm] using h.params, fun q x hx => ?_⟩
    rw [hrun, Option.map_eq_some_iff] at hx
    obtain ⟨y, hy, rfl⟩ := hx
    have hfit : (y.close).CountFits s.config.passLimit s.mode :=
      (h.runs q y hy).restage rfl ⟨nofun, nofun, nofun⟩
    simpa [State.completeClose, hm] using hfit.mode (m' := .closed) nofun nofun
  · rwa [State.completeClose, if_neg hm]

theorem completeWipe (h : s.CountsFit) : s.completeWipe.CountsFit := by
  by_cases hm : s.mode = .wiping
  · have hrun : s.completeWipe.run = s.run := by
      funext q
      simp [State.completeWipe, hm, State.run]
    refine unloaded (by simpa [State.completeWipe, hm] using h.params) fun r => ?_
    rw [hrun]
    by_contra hr
    obtain ⟨x, hx⟩ := Option.ne_none_iff_exists'.mp hr
    exact (h.runs r x hx).wiping hm
  · rwa [State.completeWipe, if_neg hm]

theorem advance (h : s.CountsFit) : s.advance.CountsFit := by
  refine h.of_runs (by simp) (by simp) fun q x hx => ?_
  have htick (t : State) (x : LoadedRun) (hx : t.tickTimers.run q = some x) (hruns : t.runs = s.runs) :
      x.CountFits s.config.passLimit s.mode := by
    rw [State.run_tickTimers] at hx
    obtain ⟨y, hy, rfl⟩ := Option.map_eq_some_iff.mp hx
    refine (h.runs q y ?_).same rfl (by cases hy : y.stage <;> simp [LoadedRun.ticked, tickStage, Stage.state, hy])
    rwa [State.run, hruns] at hy
  unfold State.advance at hx
  split at hx
  · exact htick _ x hx rfl
  all_goals exact h.runs q x hx

theorem hold (h : s.CountsFit) (a : Option RunNo) : (s.holdRun a).CountsFit := by
  cases a with
  | none => exact h
  | some r =>
    refine h.updateRun r fun x _ hx => ?_
    cases hg : x.stage with
    | claimed k => exact hx.restage rfl (by simp [holdStage, Stage.state])
    | _ => exact hx.same rfl (by simp [holdStage, hg])

theorem resume (h : s.CountsFit) (a : Option RunNo) : (s.resumeRun a).CountsFit := by
  cases a with
  | none => exact h
  | some r =>
    refine h.updateRun r fun x _ hx => ?_
    cases hg : x.stage with
    | held k => exact hx.restage rfl (by simp [resumeStage, Stage.state])
    | _ => exact hx.same rfl (by simp [resumeStage, hg])

theorem change {c : Instr} (h : s.CountsFit) (hc : Change s c t) : t.CountsFit := by
  cases hc with
  | none => exact h
  | configure p a b c d e params hp hm =>
    exact ⟨hp, fun r x hx => .zero ((h.runs r x hx).halted hm) hp.2.2.2.2.1 (by rw [hm]; exact nofun)⟩
  | enter c m hm hopen =>
    exact h.mode rfl rfl (by rcases hopen with rfl | rfl <;> exact nofun)
      (by rcases hopen with rfl | rfl <;> exact nofun)
  | close p hm hfree => exact h.mode rfl rfl nofun nofun
  | wipe => exact unloaded h.params fun _ => rfl
  | deviceReset => exact h.congr rfl rfl rfl
  | loadRun c r lo hi length hr hm =>
    exact h.setRun r (.zero rfl h.one_le (by rcases hm with hm | hm | hm <;> rw [hm] <;> exact nofun))
  | loadItem c r x tag key st hr hx hcheck =>
    have hpool (pool : List (Nat × Entry)) (ys : List Stray) : ({ s with strays := ys, pool := pool } : State).CountsFit :=
      h.congr rfl rfl rfl
    exact (hpool _ _).updateRun r fun y _ hy => hy.same rfl rfl
  | loadDone c r x hr hx =>
    have hfit := h.runs r x hr
    exact h.setRun r (.zero (hfit.fresh (.inl (by rw [hx]; rfl))) h.one_le hfit.wiping)
  | unload c r x hr hx =>
    refine h.of_runs rfl rfl fun q y hy => ?_
    rw [State.run_unload] at hy
    split_ifs at hy
    exact h.runs q y hy
  | closeRun c r x hr hx => exact h.setRun r ((h.runs r x hr).restage rfl ⟨nofun, nofun, nofun⟩)
  | resetPasses c r x hr hx => exact h.setRun r (.zero rfl h.one_le (h.runs r x hr).wiping)
  | forceRelease p run r => exact h.releaseClaim r _
  | readRecord => exact h.congr rfl rfl rfl
  | setDivert => exact h.congr rfl rfl rfl
  | divert p w v context hv =>
    have hset (store : ContextStore) : (s.setWand v store).CountsFit := h.congr rfl rfl rfl
    exact ((hset _).hold _).congr rfl rfl rfl
  | window => exact h.congr rfl rfl rfl
  | claim c p w i r x hc hp hm hr hx hfree hserial =>
    have hfit := h.runs r x hr
    have hroom : x.passCount + 1 ≤ s.config.passLimit := by
      rcases hx with hx | hx
      · rw [hfit.fresh (.inr (by rw [hx]; rfl))]
        exact h.one_le
      · exact hfit.rescan (by rw [hx]; rfl)
    have hserial : ({ s with passSerial := s.passSerial + 1 } : State).CountsFit := h.congr rfl rfl rfl
    exact (hserial.setRun r (x := { x with
      passCount := x.passCount + 1
      stage := .claimed { claimant := w, timer := s.config.claimInterval,
                          pass := PassRecord.begin (s.passSerial + 1) (s.wand w).current.direction } })
      ⟨hroom, nofun, nofun, fun hh => (by rw [hm] at hh; cases hh), hfit.wiping⟩).congr rfl rfl rfl
  | sight p xs w r hp hr => exact h.moves (sightAll_moves s r w xs)
  | runEnd p run w r x k g last o hp hr hx hk hg => exact h.passEnded w k hr hg last o
  | runAbandon p run w r x k hp hr hx hk => exact h.abandon r _
  | resume p w top rest hp hfree hstack =>
    have hset (store : ContextStore) : (s.setWand w store).CountsFit := h.congr rfl rfl rfl
    exact (hset _).resume _
  | setMask => exact h.congr rfl rfl rfl
  | loan p tag i e hl => exact h.moves (lent_moves s 0 .lp0 i e)
  | takeBack p tag i e hl => exact h.moves (takenBack_moves s 0 .lp0 i e)

end State.CountsFit

theorem paramsInRange_default : paramsInRange Config.Params.default := by
  simp [paramsInRange, Config.Params.default]

theorem State.CountsFit.reset : State.reset.CountsFit := .unloaded paramsInRange_default fun _ => rfl

/-- The pass counts fit after every step where they did before it. -/
theorem countsFit_kept : RecordInvariant State.CountsFit where
  records _ _ e h := h.congr (congrArg State.config e :) (congrArg State.mode e :)
    (funext fun r => congrArg (State.run · r) e :)
  reset := State.CountsFit.reset
  abandon _ r y h := h.abandon r y
  advance _ h := h.advance
  close _ h := h.completeClose
  wipe _ h := h.completeWipe
  wand s w h := State.CountsFit.congr
    (State.foldl_abandon_keeps (P := State.CountsFit) (fun _ r ht => ht.abandon r .portReset) (s.wand w).claims h) rfl rfl rfl
  change _ _ _ hc h := h.change hc

end Sys2Proof.Machine
end

section
/-! PROOFS. The canonical form of the pool and the Run Table: each operation that writes a table keeps its keys rising, and so
does every step. -/
namespace Sys2Proof.Machine

namespace State.Canonical
variable {s t : State}

theorem congr (h : s.Canonical) (hp : t.pool = s.pool) (hr : t.runs = s.runs) : t.Canonical :=
  ⟨hp ▸ h.1, hr ▸ h.2⟩

theorem setRun (h : s.Canonical) (r : RunNo) (x : LoadedRun) : (s.setRun r x).Canonical :=
  ⟨h.1, tableSorted_put runOrder r x h.2⟩

theorem updateRun (h : s.Canonical) (r : RunNo) (f : LoadedRun → LoadedRun) : (s.updateRun r f).Canonical := by
  cases hr : s.run r with
  | none => rwa [State.updateRun_none hr]
  | some x => exact State.updateRun_some hr f ▸ h.setRun r (f x)

theorem putEntry (h : s.Canonical) (i : Nat) (e : Entry) : ({ s with pool := tablePut i e s.pool } : State).Canonical :=
  ⟨tableSorted_put natOrder i e h.1, h.2⟩

theorem updateEntry (h : s.Canonical) (i : Nat) (f : Entry → Entry) : (s.updateEntry i f).Canonical := by
  cases he : s.entry i with
  | none => rwa [State.updateEntry_none he]
  | some e => exact State.updateEntry_some he f ▸ h.putEntry i (f e)

theorem updateClaim (h : s.Canonical) (r : RunNo) (f : Claim → Claim) : (s.updateClaim r f).Canonical := h.updateRun r _

theorem updatePass (h : s.Canonical) (r : RunNo) (f : PassRecord → PassRecord) : (s.updatePass r f).Canonical :=
  h.updateClaim r _

theorem setStatus (h : s.Canonical) (i : Nat) (st : Status) : (s.setStatus i st).Canonical := by
  unfold State.setStatus
  split
  · split
    · exact h
    · exact (h.updateEntry i _).updateRun _ _
  · exact h

theorem withdraw (h : s.Canonical) (i : Nat) : (s.withdraw i).Canonical := by
  unfold State.withdraw
  split
  · exact h.updatePass _ _
  · exact h

theorem offer (h : s.Canonical) (d : Discrepancy) : (s.offer d).Canonical := h.congr (by simp) (by simp)

theorem moves {r : RunNo} {w : WandPort} (h : s.Canonical) (hm : Moves r w s t) : t.Canonical := by
  refine hm.keep (P := State.Canonical) (fun a b hab ha => ?_) h
  cases hab with
  | offer d => exact ha.offer d
  | prompt n => exact ha.congr rfl rfl
  | entry i f hf => exact ha.updateEntry i f
  | status i st => exact ha.setStatus i st
  | withdraw i => exact ha.withdraw i
  | pass f hf => exact ha.updatePass r f
  | accept n => exact ha.updateClaim r _
  | addStray y => exact ha.congr (by simp) (by simp)
  | strays f => exact ha.congr rfl rfl

theorem abandon (h : s.Canonical) (r : RunNo) (y : Reason) : (s.abandon r y).Canonical := by
  cases hc : s.claim? r with
  | none => rwa [State.abandon_free hc]
  | some k =>
    obtain ⟨x, hr, hg⟩ := State.claim_some.mp hc
    rw [State.abandon_eq hr (Stage.claim_some.mpr hg)]
    exact (h.setRun r (x.abandoned k s.config.passLimit y)).congr (State.offer_pool _ _) (State.offer_runs _ _)

theorem releaseClaim (h : s.Canonical) (r : RunNo) (y : Reason) : (s.releaseClaim r y).Canonical := by
  unfold State.releaseClaim
  split
  · exact (h.abandon r y).congr rfl rfl
  · exact h

/-- Both tables with their values changed, each under its own key. -/
theorem mapTables (h : s.Canonical) (f : Entry → Entry) (g : LoadedRun → LoadedRun)
    (hp : t.pool = s.pool.map fun x => (x.1, f x.2)) (hr : t.runs = s.runs.map fun x => (x.1, g x.2)) : t.Canonical :=
  ⟨by rw [hp, tableSorted_map natOrder fun x => f x.2]; exact h.1,
    by rw [hr, tableSorted_map runOrder fun x => g x.2]; exact h.2⟩

theorem completeClose (h : s.Canonical) : s.completeClose.Canonical := by
  by_cases hm : s.mode = .closing
  · exact h.mapTables Entry.close LoadedRun.close (by simp [State.completeClose, hm]) (by simp [State.completeClose, hm])
  · rwa [State.completeClose, if_neg hm]

theorem completeWipe (h : s.Canonical) : s.completeWipe.Canonical := by
  unfold State.completeWipe
  split
  · exact h.congr (by simp) (by simp)
  · exact h

theorem advance (h : s.Canonical) : s.advance.Canonical := by
  unfold State.advance
  split
  · exact ⟨h.1, (tableSorted_map runOrder (fun x : RunNo × LoadedRun => x.2.ticked) s.runs).trans h.2⟩
  all_goals exact h

theorem withItem (h : s.Canonical) (r : RunNo) (tag : Tag) (key : ShelfKey) (st : Status) :
    (s.withItem r tag key st).Canonical :=
  updateRun (s := { s with
    strays := s.strays.filter fun y => y.tag ≠ tag
    pool := tablePut (lowestFree 0 s.pool) (Entry.loaded tag key r st (s.strayOf tag)) s.pool })
    (h.putEntry _ _) r _

theorem passEnded (h : s.Canonical) (r : RunNo) (w : WandPort) (k : Claim) (g : Stage) (last : LastPass)
    (o : PassOutcome) : (s.passEnded r w k g last o).Canonical :=
  ((h.moves (judgePassEnd_moves (r := r) (w := w) k.pass)).updateRun r _).congr rfl rfl

theorem holdRun (h : s.Canonical) (a : Option RunNo) : (s.holdRun a).Canonical := by
  cases a with
  | none => exact h
  | some r => exact h.updateRun r _

theorem resumeRun (h : s.Canonical) (a : Option RunNo) : (s.resumeRun a).Canonical := by
  cases a with
  | none => exact h
  | some r => exact h.updateRun r _

theorem change {c : Instr} (h : s.Canonical) (hc : Change s c t) : t.Canonical := by
  cases hc with
  | none => exact h
  | wipe => exact ⟨rfl, rfl⟩
  | loadRun => exact h.setRun _ _
  | loadItem c r x tag key st => exact h.withItem r tag key st
  | loadDone => exact h.setRun _ _
  | unload c r => exact ⟨tableSorted_filter natOrder _ h.1, tableSorted_erase runOrder r h.2⟩
  | closeRun => exact h.setRun _ _
  | resetPasses => exact h.setRun _ _
  | forceRelease p run r => exact h.releaseClaim r _
  | divert p w v context =>
    have hset (store : ContextStore) : (s.setWand v store).Canonical := h
    exact ((hset _).holdRun _).congr rfl rfl
  | claim c p w i r x =>
    have hserial : ({ s with passSerial := s.passSerial + 1 } : State).Canonical := h
    exact (hserial.setRun r _).congr rfl rfl
  | sight p xs w r => exact h.moves (sightAll_moves s r w xs)
  | runEnd p run w r x k g last o => exact h.passEnded r w k g last o
  | runAbandon p run w r => exact h.abandon r _
  | resume p w top rest =>
    have hset (store : ContextStore) : (s.setWand w store).Canonical := h
    exact (hset _).resumeRun _
  | loan p tag i e => exact h.moves (lent_moves s 0 .lp0 i e)
  | takeBack p tag i e => exact h.moves (takenBack_moves s 0 .lp0 i e)
  | _ => exact h.congr rfl rfl

theorem resetWand (h : s.Canonical) (w : WandPort) : (s.resetWand w).Canonical :=
  congr (State.foldl_abandon_keeps (P := State.Canonical) (fun _ r ht => ht.abandon r .portReset) (s.wand w).claims h)
    rfl rfl

end State.Canonical

/-- The tables are in canonical form after every step where they were before it. -/
theorem canonical_kept : RecordInvariant State.Canonical where
  records _ _ e h := h.congr (congrArg State.pool e :) (congrArg State.runs e :)
  reset := ⟨rfl, rfl⟩
  abandon _ r y h := h.abandon r y
  advance _ h := h.advance
  close _ h := h.completeClose
  wipe _ h := h.completeWipe
  wand _ w h := h.resetWand w
  change _ _ _ hc h := h.change hc

end Sys2Proof.Machine
end

section
/-! PROOFS. Passes and the entries they name (R51, R88, R96): of an entry only its home run and the serial of its last
reading matter, of a run only its pass record; every operation is described by what it makes of these. -/
namespace Sys2Proof.Machine

/-! ## Marks and passes -/

/-- Where an entry belongs, and the pass it was last read in. -/
def Entry.mark (e : Entry) : RunNo × Option U32 := (e.homeRun, e.lastSighting.map (·.serial))

def State.mark (s : State) (i : Nat) : Option (RunNo × Option U32) := (s.entry i).map Entry.mark

/-- The pass record of a CLAIMED or HELD run. -/
def Stage.pass? (g : Stage) : Option PassRecord := g.claim?.map (·.pass)

def State.passOf (s : State) (r : RunNo) : Option PassRecord := (s.run r).bind fun x => x.stage.pass?

/-- The entries that a pass of a run names are the run's own and have been read, the pending one last in the pass. -/
structure PassRecord.Marked (mark : Nat → Option (RunNo × Option U32)) (r : RunNo) (p : PassRecord) : Prop where
  pending : ∀ i, p.pendingEntry = some i → mark i = some (r, some p.serial)
  anchor : ∀ i, p.anchor = some i → ∃ n, mark i = some (r, some n)

theorem State.passOf_eq (s : State) (r : RunNo) : s.passOf r = (s.claim? r).map (·.pass) := by
  unfold State.passOf State.claim?
  cases s.run r <;> rfl

theorem State.passOf_some {s : State} {r : RunNo} {p : PassRecord} :
    s.passOf r = some p ↔ ∃ k, s.claim? r = some k ∧ k.pass = p := by
  rw [State.passOf_eq, Option.map_eq_some_iff]

theorem State.mark_some {s : State} {i : Nat} {r : RunNo} {n : U32} :
    s.mark i = some (r, some n) ↔
      ∃ e l, s.entry i = some e ∧ e.homeRun = r ∧ e.lastSighting = some l ∧ l.serial = n := by
  simp [State.mark, Entry.mark]

theorem State.passesAgree_iff {s : State} :
    s.PassesAgree ↔ ∀ r p, s.passOf r = some p → p.Marked s.mark r := by
  constructor
  · intro h r p hp
    obtain ⟨k, hk, rfl⟩ := State.passOf_some.mp hp
    refine ⟨fun i hi => State.mark_some.mpr (h.pendingRead r k i hk hi), fun i hi => ?_⟩
    obtain ⟨e, l, he, hr, hl⟩ := h.anchorRead r k i hk hi
    exact ⟨l.serial, State.mark_some.mpr ⟨e, l, he, hr, hl, rfl⟩⟩
  · intro h
    refine ⟨fun r k i hk hi => ?_, fun r k i hk hi => ?_⟩
    · exact State.mark_some.mp ((h r k.pass (State.passOf_some.mpr ⟨k, hk, rfl⟩)).pending i hi)
    · obtain ⟨n, hn⟩ := (h r k.pass (State.passOf_some.mpr ⟨k, hk, rfl⟩)).anchor i hi
      obtain ⟨e, l, he, hr, hl, -⟩ := State.mark_some.mp hn
      exact ⟨e, l, he, hr, hl⟩

/-! ## What the operations make of marks -/

theorem State.mark_of_pool {s t : State} (h : t.pool = s.pool) : t.mark = s.mark := by
  funext i
  simp only [State.mark, State.entry, h]

theorem State.mark_updateEntry (s : State) (i j : Nat) (f : Entry → Entry) :
    (s.updateEntry i f).mark j = if j = i then (s.entry i).map fun e => (f e).mark else s.mark j := by
  simp only [State.mark, State.entry_updateEntry]
  split_ifs
  · rw [Option.map_map]
    rfl
  · rfl

/-- A change of one entry that keeps its mark. -/
theorem State.mark_updateEntry_same (s : State) (i : Nat) {f : Entry → Entry} (hf : ∀ e, (f e).mark = e.mark) :
    (s.updateEntry i f).mark = s.mark := by
  funext j
  rw [State.mark_updateEntry]
  split_ifs with hj
  · simp only [hf, hj]
    rfl
  · rfl

theorem State.mark_updateRun (s : State) (r : RunNo) (f : LoadedRun → LoadedRun) : (s.updateRun r f).mark = s.mark :=
  State.mark_of_pool (by simp)

theorem State.mark_setStatus (s : State) (i : Nat) (st : Status) : (s.setStatus i st).mark = s.mark := by
  unfold State.setStatus
  split
  · split
    · rfl
    · rw [State.mark_updateRun]
      exact s.mark_updateEntry_same i fun _ => rfl
  · rfl

theorem State.mark_withdraw (s : State) (i : Nat) : (s.withdraw i).mark = s.mark := State.mark_of_pool (by simp)

theorem State.mark_offer (s : State) (d : Discrepancy) : (s.offer d).mark = s.mark := State.mark_of_pool (by simp)

/-! ## What they make of passes -/

theorem State.passOf_of_runs {s t : State} (h : t.runs = s.runs) : t.passOf = s.passOf := by
  funext r
  simp only [State.passOf, State.run, h]

theorem State.passOf_setRun (s : State) (r q : RunNo) (x : LoadedRun) :
    (s.setRun r x).passOf q = if q = r then x.stage.pass? else s.passOf q := by
  simp only [State.passOf, State.run_setRun]
  split_ifs <;> rfl

/-- A change of one run that keeps its pass. -/
theorem State.passOf_updateRun_same (s : State) (r : RunNo) {f : LoadedRun → LoadedRun}
    (hf : ∀ x, (f x).stage.pass? = x.stage.pass?) : (s.updateRun r f).passOf = s.passOf := by
  funext q
  simp only [State.passOf, State.run_updateRun]
  split_ifs with hq
  · subst hq
    cases s.run q with
    | none => rfl
    | some x => exact hf x
  · rfl

theorem Stage.pass_mapClaim (g : Stage) (f : Claim → Claim) :
    (g.mapClaim f).pass? = g.claim?.map fun c => (f c).pass := by
  rw [Stage.pass?, Stage.mapClaim_claim, Option.map_map]
  rfl

theorem State.passOf_updatePass (s : State) (r q : RunNo) (f : PassRecord → PassRecord) :
    (s.updatePass r f).passOf q = if q = r then (s.passOf r).map f else s.passOf q := by
  rw [State.passOf_eq, State.passOf_eq, State.passOf_eq]
  refine (congrArg (Option.map _) (State.claim_updateClaim s r q _)).trans ?_
  split_ifs
  · rw [Option.map_map, Option.map_map]
    rfl
  · rfl

theorem State.passOf_updateEntry (s : State) (i : Nat) (f : Entry → Entry) : (s.updateEntry i f).passOf = s.passOf :=
  State.passOf_of_runs (by simp)

theorem State.passOf_offer (s : State) (d : Discrepancy) : (s.offer d).passOf = s.passOf := State.passOf_of_runs (by simp)

theorem State.passOf_setStatus (s : State) (i : Nat) (st : Status) : (s.setStatus i st).passOf = s.passOf := by
  unfold State.setStatus
  split
  · split
    · rfl
    · rw [State.passOf_updateRun_same _ _ (fun _ => by exact rfl), State.passOf_updateEntry]
  · rfl

/-! ## The serial of the pass on a run -/

/-- The serial of the pass on a run, if there is one. -/
def State.serialOf (s : State) (r : RunNo) : Option U32 := (s.passOf r).map (·.serial)

theorem State.serialOf_updatePass (s : State) (r q : RunNo) {f : PassRecord → PassRecord}
    (hf : ∀ p, (f p).serial = p.serial) : (s.updatePass r f).serialOf q = s.serialOf q := by
  simp only [State.serialOf, State.passOf_updatePass]
  split_ifs with hq
  · subst hq
    rw [Option.map_map]
    exact congrArg (Option.map · _) (funext hf)
  · rfl

/-! ## The agreement, and the operations that keep it -/

/-- What is kept: the canonical form, and each pass naming entries of its run that have been read. -/
structure State.PassesMarked (s : State) : Prop where
  canonical : s.Canonical
  passes : ∀ r p, s.passOf r = some p → p.Marked s.mark r

/-- A pass that names no more than before, of marks that stay, is still marked. -/
theorem PassRecord.Marked.fewer {mark : Nat → Option (RunNo × Option U32)} {r : RunNo} {p p' : PassRecord}
    (h : p.Marked mark r) (hs : p'.serial = p.serial) (hp : p'.pendingEntry = none ∨ p'.pendingEntry = p.pendingEntry)
    (ha : p'.anchor = p.anchor) : p'.Marked mark r := by
  refine ⟨fun i hi => ?_, fun i hi => h.anchor i (ha ▸ hi)⟩
  rcases hp with hp | hp
  · rw [hp] at hi
    cases hi
  · exact hs ▸ h.pending i (hp ▸ hi)

namespace State.PassesMarked
variable {s t : State}

theorem congr (h : s.PassesMarked) (hc : t.Canonical) (hm : t.mark = s.mark) (hp : t.passOf = s.passOf) :
    t.PassesMarked := ⟨hc, by rw [hm, hp]; exact h.passes⟩

theorem of_tables (h : s.PassesMarked) (hp : t.pool = s.pool) (hr : t.runs = s.runs) : t.PassesMarked :=
  h.congr (h.canonical.congr hp hr) (State.mark_of_pool hp) (State.passOf_of_runs hr)

theorem offer (h : s.PassesMarked) (d : Discrepancy) : (s.offer d).PassesMarked :=
  h.of_tables (by simp) (by simp)

theorem prompt (h : s.PassesMarked) (w : WandPort) (n : Prompt) : (s.prompt w n).PassesMarked := h.of_tables rfl rfl

theorem updateEntry (h : s.PassesMarked) (i : Nat) {f : Entry → Entry} (hf : ∀ e, (f e).mark = e.mark) :
    (s.updateEntry i f).PassesMarked :=
  h.congr (h.canonical.updateEntry i f) (s.mark_updateEntry_same i hf) (s.passOf_updateEntry i f)

theorem setStatus (h : s.PassesMarked) (i : Nat) (st : Status) : (s.setStatus i st).PassesMarked :=
  h.congr (h.canonical.setStatus i st) (s.mark_setStatus i st) (s.passOf_setStatus i st)

theorem updatePass (h : s.PassesMarked) (r : RunNo) {f : PassRecord → PassRecord}
    (hf : ∀ p, s.passOf r = some p → p.Marked s.mark r → (f p).Marked s.mark r) : (s.updatePass r f).PassesMarked := by
  refine ⟨h.canonical.updatePass r f, fun q p hp => ?_⟩
  rw [State.passOf_updatePass] at hp
  rw [State.mark_of_pool (s := s) (by simp)]
  split_ifs at hp with hq
  · subst hq
    obtain ⟨p', hp', rfl⟩ := Option.map_eq_some_iff.mp hp
    exact hf p' hp' (h.passes q p' hp')
  · exact h.passes q p hp

theorem count (h : s.PassesMarked) (r : RunNo) (k : Counter) : (s.count r k).PassesMarked :=
  h.updatePass r fun _ _ hp => hp.fewer rfl (.inr rfl) rfl

theorem withdraw (h : s.PassesMarked) (i : Nat) : (s.withdraw i).PassesMarked := by
  unfold State.withdraw
  split
  · exact h.updatePass _ fun _ _ hp => hp.fewer rfl (.inl rfl) rfl
  · exact h

/-- An entry withdrawn is pending in no pass. -/
theorem withdraw_pending (h : s.PassesMarked) (i : Nat) {r : RunNo} {p : PassRecord}
    (hp : (s.withdraw i).passOf r = some p) : p.pendingEntry ≠ some i := by
  intro hi
  by_cases hold : ∃ p', s.passOf r = some p' ∧ p'.pendingEntry = some i
  · obtain ⟨p', hp', hi'⟩ := hold
    obtain ⟨k, hk, rfl⟩ := State.passOf_some.mp hp'
    obtain ⟨e, l, he, rfl, -⟩ := State.mark_some.mp ((h.passes r _ hp').pending i hi')
    have hrun : s.pendingRun i = some e.homeRun := by simp [State.pendingRun, he, hk, hi']
    rw [State.withdraw, hrun] at hp
    simp only [State.passOf_updatePass, if_true, hp', Option.map_some, Option.some.injEq] at hp
    rw [← hp] at hi
    cases hi
  · unfold State.withdraw at hp
    split at hp
    · rw [State.passOf_updatePass] at hp
      split_ifs at hp with hq
      · obtain ⟨p', -, rfl⟩ := Option.map_eq_some_iff.mp hp
        cases hi
      · exact hold ⟨p, hp, hi⟩
    · exact hold ⟨p, hp, hi⟩

/-- An entry that no pass holds pending may be read in any pass. -/
theorem reread (h : s.PassesMarked) {i : Nat} (hi : ∀ r p, s.passOf r = some p → p.pendingEntry ≠ some i)
    (l : LastSighting) : (s.updateEntry i fun e => { e with lastSighting := some l }).PassesMarked := by
  refine ⟨h.canonical.updateEntry i _, fun r p hp => ?_⟩
  rw [State.passOf_updateEntry] at hp
  have hold := h.passes r p hp
  refine ⟨fun j hj => ?_, fun j hj => ?_⟩
  · rw [State.mark_updateEntry, if_neg fun hji : j = i => hi r p hp (hji ▸ hj)]
    exact hold.pending j hj
  · obtain ⟨n, hn⟩ := hold.anchor j hj
    rw [State.mark_updateEntry]
    split_ifs with hji
    · subst hji
      obtain ⟨e, l', he, hr, -⟩ := State.mark_some.mp hn
      exact ⟨l.serial, by simp [he, Entry.mark, hr]⟩
    · exact ⟨n, hn⟩

end State.PassesMarked

/-! ## Judgements (R97) -/

theorem State.mark_judge (s : State) (r : RunNo) (w : WandPort) (i : Nat) (e : Entry) (j : Judgement) :
    (s.judge r w i e j).mark = s.mark := by
  have judged (st : Status) (k : Counter) :
      (((s.updateEntry i fun e => { e with judgement := some j }).setStatus i st).count r k).mark = s.mark :=
    (State.mark_of_pool (State.count_pool _ r k)).trans
      ((State.mark_setStatus _ i st).trans (s.mark_updateEntry_same i fun _ => by exact rfl))
  cases j with
  | inOrder => exact judged _ _
  | ahead => exact (State.mark_offer _ _).trans (judged _ _)
  | behind => exact (State.mark_offer _ _).trans (judged _ _)
  | visitor => rfl
  | unjudged => rfl

theorem State.PassesMarked.judge {s : State} (h : s.PassesMarked) (r : RunNo) (w : WandPort) (i : Nat) (e : Entry)
    (j : Judgement) : (s.judge r w i e j).PassesMarked := by
  have judged (st : Status) (k : Counter) :
      (((s.updateEntry i fun e => { e with judgement := some j }).setStatus i st).count r k).PassesMarked :=
    ((h.updateEntry i fun _ => by exact rfl).setStatus i st).count r k
  cases j with
  | inOrder => exact judged _ _
  | ahead => exact ((judged _ _).offer _).prompt _ _
  | behind => exact ((judged _ _).offer _).prompt _ _
  | visitor => exact h
  | unjudged => exact h

/-! ## The serials that moves leave -/

theorem State.serialOf_eq (s : State) (r : RunNo) : s.serialOf r = (s.claim? r).map (·.pass.serial) := by
  rw [State.serialOf, State.passOf_eq, Option.map_map]
  rfl

theorem State.serialOf_judge (s : State) (r q : RunNo) (w : WandPort) (i : Nat) (e : Entry) (j : Judgement) :
    (s.judge r w i e j).serialOf q = s.serialOf q := by
  have judged (st : Status) (k : Counter) :
      (((s.updateEntry i fun e => { e with judgement := some j }).setStatus i st).count r k).serialOf q = s.serialOf q := by
    rw [State.count, State.serialOf_updatePass _ _ _ (fun _ => by exact rfl), State.serialOf, State.passOf_setStatus,
      State.passOf_updateEntry]
    rfl
  have offered (t : State) (d : Discrepancy) : (t.offer d).serialOf q = t.serialOf q := by
    rw [State.serialOf, State.passOf_offer]
    rfl
  cases j with
  | inOrder => exact judged _ _
  | ahead => exact (offered _ _).trans (judged _ _)
  | behind => exact (offered _ _).trans (judged _ _)
  | visitor => rfl
  | unjudged => rfl

theorem State.serialOf_withdraw (s : State) (i : Nat) (q : RunNo) : (s.withdraw i).serialOf q = s.serialOf q := by
  unfold State.withdraw
  split
  · exact State.serialOf_updatePass _ _ _ fun _ => rfl
  · rfl

theorem State.serialOf_of_runs {s t : State} (h : t.runs = s.runs) : t.serialOf = s.serialOf := by
  funext q
  rw [State.serialOf, State.passOf_of_runs h]
  rfl

end Sys2Proof.Machine
end

section
/-! PROOFS. Passes and the entries they name, continued: sightings, circulation, the ends of passes and every other change
keep the agreement, and so does every step. -/
namespace Sys2Proof.Machine

namespace State.PassesMarked
variable {s t : State}

/-! ## An arrival (R91 to R94) -/

/-- An entry read in the pass becomes its pending entry. -/
theorem enter (h : s.PassesMarked) {r : RunNo} {i : Nat} {n : U32} (hs : s.serialOf r = some n)
    (hi : s.mark i = some (r, some n)) : (s.updatePass r fun p => { p with pendingEntry := some i }).PassesMarked :=
  h.updatePass r fun p hp hold => ⟨fun j hj => by
    have hn : p.serial = n := by simpa [State.serialOf, hp] using hs
    cases hj
    rw [hi, hn], hold.anchor⟩

/-- An entry of the run that has been read becomes the anchor. -/
theorem anchored (h : s.PassesMarked) {r : RunNo} {i : Nat} {n : U32} (hi : s.mark i = some (r, some n)) :
    (s.updatePass r fun p => { p with anchor := some i }).PassesMarked :=
  h.updatePass r fun _ _ hold => ⟨hold.pending, fun j hj => by cases hj; exact ⟨n, hi⟩⟩

theorem arrive (h : s.PassesMarked) {r : RunNo} (w : WandPort) {p : PassRecord} {i : Nat} (key : ShelfKey)
    (hp : s.passOf r = some p) (hi : s.mark i = some (r, some p.serial)) : (s.arrive r w p i key).PassesMarked := by
  have hs : s.serialOf r = some p.serial := by simp [State.serialOf, hp]
  unfold State.arrive
  dsimp only
  split
  · exact h.enter hs hi
  next j hj =>
  split
  · exact h.enter hs hi
  next e he =>
  have hjudged := h.judge r w j e (arrivalJudgement p.direction (s.anchorKey p) e.key key)
  have hsj := (s.serialOf_judge r r w j e (arrivalJudgement p.direction (s.anchorKey p) e.key key)).trans hs
  have hmark := s.mark_judge r w j e (arrivalJudgement p.direction (s.anchorKey p) e.key key)
  split_ifs with hg
  · have hjm : (s.judge r w j e (arrivalJudgement p.direction (s.anchorKey p) e.key key)).mark j =
        some (r, some p.serial) := by rw [hmark]; exact (h.passes r p hp).pending j hj
    refine (hjudged.anchored hjm).enter ((State.serialOf_updatePass _ r r fun _ => by exact rfl).trans hsj) ?_
    rw [State.mark_of_pool (State.updatePass_pool _ _ _), hmark]
    exact hi
  · exact hjudged.enter hsj (by rw [hmark]; exact hi)

/-! ## The readings of a sighting -/

theorem visit (h : s.PassesMarked) (r : RunNo) (w : WandPort) (x i : Nat) (e : Entry) : (s.visit r w x i e).PassesMarked :=
  ((((h.updateEntry i fun _ => by exact rfl).setStatus i .displaced).count r .visitors).offer _).prompt w _

end State.PassesMarked

/-- The passes are marked, an entry has a given mark, and the pass on a run has a given serial. -/
structure State.MarkedIn (s : State) (r : RunNo) (n : U32) (i : Nat) (m : RunNo × Option U32) : Prop where
  passes : s.PassesMarked
  mark : s.mark i = some m
  serial : s.serialOf r = some n

namespace State.MarkedIn
variable {s : State} {r : RunNo} {n : U32} {i : Nat} {m : RunNo × Option U32}

theorem updateEntry (h : s.MarkedIn r n i m) {f : Entry → Entry} (hf : ∀ e, (f e).mark = e.mark) :
    (s.updateEntry i f).MarkedIn r n i m where
  passes := h.passes.updateEntry i hf
  mark := (congrFun (s.mark_updateEntry_same i hf) i).trans h.mark
  serial := (congrArg (Option.map PassRecord.serial) (congrFun (s.passOf_updateEntry i f) r)).trans h.serial

theorem offer (h : s.MarkedIn r n i m) (d : Discrepancy) : (s.offer d).MarkedIn r n i m where
  passes := h.passes.offer d
  mark := (congrFun (s.mark_offer d) i).trans h.mark
  serial := (congrFun (State.serialOf_of_runs (by simp)) r).trans h.serial

theorem withdraw (h : s.MarkedIn r n i m) : (s.withdraw i).MarkedIn r n i m where
  passes := h.passes.withdraw i
  mark := (congrFun (s.mark_withdraw i) i).trans h.mark
  serial := (s.serialOf_withdraw i r).trans h.serial

/-- A withdrawn entry is read in the pass. -/
theorem read (h : s.MarkedIn r n i m) {l : LastSighting} (hl : l.serial = n) :
    ((s.withdraw i).updateEntry i fun e => { e with lastSighting := some l }).MarkedIn r n i (m.1, some n) where
  passes := h.withdraw.passes.reread (fun _ _ => h.passes.withdraw_pending i) l
  mark := by
    obtain ⟨e, he, hm⟩ := Option.map_eq_some_iff.mp h.withdraw.mark
    rw [State.mark_updateEntry, if_pos rfl, he, ← hm]
    simp [Entry.mark, hl]
  serial := (congrArg (Option.map PassRecord.serial) (congrFun (State.passOf_updateEntry _ i _) r)).trans
    h.withdraw.serial

/-- A home item just read arrives. -/
theorem arrive (h : s.MarkedIn r n i (r, some n)) (w : WandPort) {c : Claim} (key : ShelfKey) (hc : s.claim? r = some c) :
    (s.arrive r w c.pass i key).PassesMarked := by
  have hp : s.passOf r = some c.pass := State.passOf_some.mpr ⟨c, hc, rfl⟩
  have hn : c.pass.serial = n := by simpa [State.serialOf, hp] using h.serial
  exact h.passes.arrive w key hp (hn ▸ h.mark)

/-- A fresh reading of an entry in the pass. -/
theorem sightFresh (h : s.MarkedIn r n i m) (w : WandPort) (x : Nat) {e : Entry} (he : e.homeRun = m.1) :
    (s.sightFresh r w n x i e).2.PassesMarked := by
  have seen := h.read (l := (s.withdraw i).reading r w n x) rfl
  have warned := (seen.updateEntry (f := fun e => { e with flags := { e.flags with loanConflict := true } })
    fun _ => by exact rfl).offer (readingRecord ((s.withdraw i).updateEntry i fun e =>
      { e with lastSighting := some ((s.withdraw i).reading r w n x) }) .phantomLoan r w i e.tag x)
  have home {v : State} (hv : v.MarkedIn r n i (m.1, some n)) (hr : ¬ e.homeRun ≠ r) :
      (v.updateEntry i fun e => { e with judgement := some .unjudged }).MarkedIn r n i (r, some n) := by
    rw [← not_not.mp hr, he] at hv ⊢
    exact hv.updateEntry fun _ => by exact rfl
  unfold State.sightFresh
  dsimp only
  split_ifs with hvisit hloan hloan
  · exact warned.passes.visit r w x i e
  · exact seen.passes.visit r w x i e
  · split
    · exact (home warned hvisit).arrive w e.key ‹_›
    · exact (home warned hvisit).passes
  · split
    · exact (home seen hvisit).arrive w e.key ‹_›
    · exact (home seen hvisit).passes

/-- A second reading of an entry in the pass writes the serial that its last reading had. -/
theorem sightAgain (h : s.MarkedIn r n i m) (w : WandPort) (x : Nat) (e : Entry) (l : LastSighting)
    (hm : m.2 = some n) : (s.sightAgain r w n x i e l).2.PassesMarked := by
  unfold State.sightAgain
  split
  · exact h.passes
  · have moved := (h.updateEntry (f := fun e => { e with flags := { e.flags with moved := true } }) fun _ => by
      exact rfl).offer
        { kind := .moved, time := s.clock, run := some l.run, port := some w.port, entry := some i, tag := some e.tag,
          position := some l.position, positionTo := some x, runTo := some r }
    refine State.PassesMarked.count ?_ r .moved
    refine moved.passes.congr (moved.passes.canonical.updateEntry i _) (funext fun j => ?_) (State.passOf_updateEntry _ i _)
    rw [State.mark_updateEntry]
    split_ifs with hj
    · obtain ⟨f, hf, hfm⟩ := Option.map_eq_some_iff.mp moved.mark
      rw [hj, moved.mark, hf, ← hfm]
      rw [← hfm] at hm
      exact congrArg some (Prod.ext rfl hm.symm)
    · rfl

end State.MarkedIn

namespace State.PassesMarked
variable {s t : State}

theorem sightStray (h : s.PassesMarked) (r : RunNo) (w : WandPort) (n : U32) (x : Nat) (tag : Tag) :
    (s.sightStray r w n x tag).2.PassesMarked := by
  have hlist (ys : List Stray) : ({ s with strays := ys } : State).PassesMarked := h.of_tables rfl rfl
  have hadd (y : Stray) : (s.addStray y).PassesMarked := h.of_tables (by simp) (by simp)
  unfold State.sightStray
  split
  · split
    · exact h
    · exact (hlist _).count r _
  · split
    · exact ((hadd _).count r _).prompt w _
    · exact (h.offer _).count r _

theorem classify (h : s.PassesMarked) {r : RunNo} (w : WandPort) {n : U32} (x : Nat) (clamped : Bool) (tag : Tag)
    (hs : s.serialOf r = some n) : (s.classify r w n x clamped tag).2.PassesMarked := by
  unfold State.classify
  split
  · exact h.sightStray r w n x tag
  next i e hl =>
  have he : s.MarkedIn r n i e.mark := ⟨h, by rw [State.mark, State.lookup_entry h.canonical.1 hl]; rfl, hs⟩
  have flagged := he.updateEntry (f := fun e => { e with flags := { e.flags with clamped := true } }) fun _ => by exact rfl
  have reading {u : State} (hu : u.MarkedIn r n i e.mark) : (match e.lastSighting with
      | some l => if l.serial = n then u.sightAgain r w n x i e l else u.sightFresh r w n x i e
      | none => u.sightFresh r w n x i e).2.PassesMarked := by
    split
    · next l hlast =>
      split_ifs with hn
      · exact hu.sightAgain w x e l (by rw [Entry.mark, hlast, ← hn]; rfl)
      · exact hu.sightFresh w x rfl
    · exact hu.sightFresh w x rfl
  dsimp only
  cases clamped with
  | true => exact reading flagged
  | false => exact reading he

theorem gapTest (h : s.PassesMarked) (r : RunNo) (w : WandPort) (p : PassRecord) (x : Nat) :
    (s.gapTest r w p x).PassesMarked ∧ (s.gapTest r w p x).serialOf r = s.serialOf r := by
  unfold State.gapTest
  split
  · exact ⟨h, rfl⟩
  split
  · refine ⟨((h.offer _).count r _).prompt w _, ?_⟩
    exact (State.serialOf_updatePass _ r r fun _ => by exact rfl).trans
      (congrFun (State.serialOf_of_runs (by simp)) r)
  · exact ⟨h, rfl⟩

/-- An accepted position touches neither the serial nor the entries that the pass names. -/
theorem accept (h : s.PassesMarked) (r : RunNo) (x : Nat) :
    (s.accept r x).PassesMarked ∧ (s.accept r x).serialOf r = s.serialOf r := by
  have hpass (q : RunNo) : (s.accept r x).passOf q = if q = r then (s.passOf r).map fun p =>
      { p with lastPosition := some (advancePosition p.direction p.lastPosition x) } else s.passOf q := by
    rw [State.passOf_eq, State.passOf_eq, State.passOf_eq, State.accept, State.claim_updateClaim]
    split_ifs
    · rw [Option.map_map, Option.map_map]
      rfl
    · rfl
  refine ⟨⟨h.canonical.updateClaim r _, fun q p hp => ?_⟩, ?_⟩
  · rw [hpass] at hp
    rw [State.mark_of_pool (s := s) (by simp)]
    split_ifs at hp with hq
    · subst hq
      obtain ⟨p', hp', rfl⟩ := Option.map_eq_some_iff.mp hp
      exact (h.passes q p' hp').fewer rfl (.inr rfl) rfl
    · exact h.passes q p hp
  · rw [State.serialOf, hpass, if_pos rfl, Option.map_map]
    rfl

theorem sightOne (h : s.PassesMarked) (r : RunNo) (w : WandPort) (x : Sighting) : (s.sightOne r w x).2.PassesMarked := by
  unfold State.sightOne
  split
  · exact h
  next y hy =>
  split
  · exact h
  next c hc =>
  dsimp only
  split
  · exact h
  · have hs : s.serialOf r = some c.pass.serial := by simp [State.serialOf_eq, State.claim?, hy, hc]
    obtain ⟨hgap, hgs⟩ := h.gapTest r w c.pass (min x.position.toNat y.length)
    obtain ⟨hacc, has⟩ := hgap.accept r (min x.position.toNat y.length)
    exact hacc.classify w _ _ _ (has.trans (hgs.trans hs))

theorem sightAll (h : s.PassesMarked) (r : RunNo) (w : WandPort) (xs : List Sighting) :
    (s.sightAll r w xs).2.PassesMarked := by
  induction xs generalizing s with
  | nil => exact h
  | cons x xs ih => exact ih (h.sightOne r w x)

/-! ## Circulation -/

theorem lent (h : s.PassesMarked) (i : Nat) (e : Entry) : (s.lent i e).PassesMarked := by
  unfold State.lent
  dsimp only
  have hseen : (if ((s.pendingRun i).isSome || seenStatus e.status) = true then (s.withdraw i).flagSeenBeforeLoan i
      else s.withdraw i).PassesMarked := by
    split
    · exact (h.withdraw i).updateEntry i fun _ => by exact rfl
    · exact h.withdraw i
  split
  · exact (hseen.updateEntry i fun _ => by exact rfl).offer _
  · exact hseen.setStatus i _

theorem takenBack (h : s.PassesMarked) (i : Nat) (e : Entry) : (s.takenBack i e).PassesMarked := by
  unfold State.takenBack
  dsimp only
  have hflag : (if e.status = .expected then s.flagLoanConflict i else s).PassesMarked := by
    split
    · exact h.updateEntry i fun _ => by exact rfl
    · exact h
  have hback : (if e.status = .onLoan ∨ e.status = .expected then
      (if e.status = .expected then s.flagLoanConflict i else s).setStatus i .returned
      else if e.status = .expected then s.flagLoanConflict i else s).PassesMarked := by
    split
    · exact hflag.setStatus i _
    · exact hflag
  split
  · exact hback
  · exact hback.offer _

/-! ## Passes that end, runs that are written -/

/-- A run written without a claim names no entry. -/
theorem setRun_free (h : s.PassesMarked) (r : RunNo) {x : LoadedRun} (hx : x.stage.claim? = none) :
    (s.setRun r x).PassesMarked := by
  refine ⟨h.canonical.setRun r x, fun q p hp => ?_⟩
  rw [State.passOf_setRun] at hp
  split_ifs at hp
  · rw [Stage.pass?, hx] at hp
    cases hp
  · exact h.passes q p hp

theorem abandon (h : s.PassesMarked) (r : RunNo) (y : Reason) : (s.abandon r y).PassesMarked := by
  cases hc : s.claim? r with
  | none => rwa [State.abandon_free hc]
  | some k =>
    obtain ⟨x, hr, hg⟩ := State.claim_some.mp hc
    rw [State.abandon_eq hr (Stage.claim_some.mpr hg)]
    refine (h.setRun_free r (x := x.abandoned k s.config.passLimit y) ?_).of_tables (State.offer_pool _ _)
      (State.offer_runs _ _)
    exact Stage.holder_eq_none.mp (stageAfterPass_holder _ _)

theorem releaseClaim (h : s.PassesMarked) (r : RunNo) (y : Reason) : (s.releaseClaim r y).PassesMarked := by
  unfold State.releaseClaim
  split
  · exact (h.abandon r y).of_tables rfl rfl
  · exact h

theorem resetWand (h : s.PassesMarked) (w : WandPort) : (s.resetWand w).PassesMarked :=
  of_tables (State.foldl_abandon_keeps (P := State.PassesMarked) (fun _ r ht => ht.abandon r .portReset)
    (s.wand w).claims h) rfl rfl

theorem judgePassEnd (h : s.PassesMarked) (r : RunNo) (w : WandPort) (p : PassRecord) :
    (s.judgePassEnd r w p).PassesMarked := by
  unfold State.judgePassEnd
  split
  · exact h
  split
  · exact h
  · exact h.judge r w _ _ _

theorem passEnded (h : s.PassesMarked) (r : RunNo) (w : WandPort) (k : Claim) {g : Stage} (hg : g.claim? = none)
    (last : LastPass) (o : PassOutcome) : (s.passEnded r w k g last o).PassesMarked := by
  have hj := h.judgePassEnd r w k.pass
  have hended : ((s.judgePassEnd r w k.pass).updateRun r fun x => { x with stage := g, lastPass := last }).PassesMarked := by
    cases hr : (s.judgePassEnd r w k.pass).run r with
    | none => rwa [State.updateRun_none hr]
    | some x =>
      rw [State.updateRun_some hr]
      exact hj.setRun_free r hg
  exact hended.of_tables rfl rfl

/-- A change of one run that keeps its pass keeps the agreement. -/
theorem updateRun (h : s.PassesMarked) (r : RunNo) {f : LoadedRun → LoadedRun}
    (hf : ∀ x, (f x).stage.pass? = x.stage.pass?) : (s.updateRun r f).PassesMarked :=
  h.congr (h.canonical.updateRun r f) (s.mark_updateRun r f) (s.passOf_updateRun_same r hf)

theorem holdRun (h : s.PassesMarked) (a : Option RunNo) : (s.holdRun a).PassesMarked := by
  cases a with
  | none => exact h
  | some r => exact h.updateRun r fun x => by cases x.stage <;> rfl

theorem resumeRun (h : s.PassesMarked) (a : Option RunNo) : (s.resumeRun a).PassesMarked := by
  cases a with
  | none => exact h
  | some r => exact h.updateRun r fun x => by cases x.stage <;> rfl

theorem beginPass (h : s.PassesMarked) (w : WandPort) (i : ShelfIndex) (r : RunNo) (x : LoadedRun) :
    (s.beginPass w i r x).PassesMarked := by
  have hclaim (k : Claim) (n : U32) (hp : k.pass.pendingEntry = none) (ha : k.pass.anchor = none) :
      (({ s with passSerial := n } : State).setRun r
        { x with passCount := x.passCount + 1, stage := .claimed k }).PassesMarked := by
    refine ⟨h.canonical.setRun r _, fun q p hq => ?_⟩
    rw [State.passOf_setRun] at hq
    split_ifs at hq
    · obtain rfl : k.pass = p := Option.some.inj hq
      exact ⟨fun j hj => absurd (hp.symm.trans hj) nofun, fun j hj => absurd (ha.symm.trans hj) nofun⟩
    · exact h.passes q p hq
  exact (hclaim _ _ rfl rfl).of_tables rfl rfl

theorem advance (h : s.PassesMarked) : s.advance.PassesMarked := by
  refine h.congr h.canonical.advance (State.mark_of_pool (by simp)) ?_
  have htick (t : State) : t.tickTimers.passOf = t.passOf := by
    funext q
    rw [State.passOf, State.run_tickTimers, State.passOf]
    cases t.run q with
    | none => rfl
    | some x => cases hx : x.stage <;> simp [LoadedRun.ticked, tickStage, hx, Stage.pass?, Stage.claim?]
  unfold State.advance
  split
  · exact htick _
  all_goals rfl

/-- No run has a pass. -/
theorem idle (hc : s.Canonical) (hp : ∀ r, s.passOf r = none) : s.PassesMarked :=
  ⟨hc, fun r p h => by rw [hp] at h; cases h⟩

theorem completeClose (h : s.PassesMarked) : s.completeClose.PassesMarked := by
  by_cases hm : s.mode = .closing
  · refine idle h.canonical.completeClose fun r => ?_
    have hrun : s.completeClose.run r = (s.run r).map LoadedRun.close := by
      refine Eq.trans ?_ (State.run_mapRuns s LoadedRun.close r)
      simp [State.completeClose, hm, State.run]
    rw [State.passOf, hrun]
    cases s.run r <;> rfl
  · rwa [State.completeClose, if_neg hm]

theorem completeWipe (h : s.PassesMarked) : s.completeWipe.PassesMarked := by
  unfold State.completeWipe
  split
  · exact h.of_tables (by simp) (by simp)
  · exact h

/-- The entries of other runs stay where one run's entries are freed. -/
theorem unload (h : s.PassesMarked) (r : RunNo) : (s.unload r).PassesMarked := by
  have hmark (i : Nat) (q : RunNo) (n : U32) (hq : q ≠ r) (hi : s.mark i = some (q, some n)) :
      (s.unload r).mark i = some (q, some n) := by
    obtain ⟨e, l, he, hhome, hl, hn⟩ := State.mark_some.mp hi
    refine State.mark_some.mpr ⟨e, l, tableGet_of_mem natOrder (tableSorted_filter natOrder _ h.canonical.1) ?_, hhome,
      hl, hn⟩
    exact List.mem_filter.mpr ⟨tableGet_mem he, by simpa [hhome] using hq⟩
  refine ⟨⟨tableSorted_filter natOrder _ h.canonical.1, tableSorted_erase runOrder r h.canonical.2⟩, fun q p hp => ?_⟩
  rw [State.passOf, State.run_unload] at hp
  split_ifs at hp with hq
  · cases hp
  · have hold := h.passes q p hp
    exact ⟨fun i hi => hmark i q _ hq (hold.pending i hi), fun i hi => (hold.anchor i hi).imp fun n hn => hmark i q n hq hn⟩

/-- A new entry takes an index that no pass names. -/
theorem withItem (h : s.PassesMarked) (r : RunNo) (tag : Tag) (key : ShelfKey) (st : Status) :
    (s.withItem r tag key st).PassesMarked := by
  have hfree : s.entry (lowestFree 0 s.pool) = none := lowestFree_free 0 h.canonical.1 fun _ _ => Nat.zero_le _
  have hput (e : Entry) (ys : List Stray) :
      ({ s with strays := ys, pool := tablePut (lowestFree 0 s.pool) e s.pool } : State).PassesMarked := by
    have hmark (i : Nat) (m : RunNo × Option U32) (hi : s.mark i = some m) :
        ({ s with strays := ys, pool := tablePut (lowestFree 0 s.pool) e s.pool } : State).mark i = some m := by
      have hne : i ≠ lowestFree 0 s.pool := fun he => by simp [State.mark, he, hfree] at hi
      rw [← hi, State.mark, State.mark, State.entry, State.entry, tableGet_put_ne _ _ hne]
    refine ⟨h.canonical.putEntry _ e, fun q p hp => ?_⟩
    have hold := h.passes q p hp
    exact ⟨fun i hi => hmark i _ (hold.pending i hi), fun i hi => (hold.anchor i hi).imp fun n hn => hmark i _ hn⟩
  exact (hput _ _).updateRun r fun _ => rfl

theorem change {c : Instr} (h : s.PassesMarked) (hc : Change s c t) : t.PassesMarked := by
  cases hc with
  | none => exact h
  | wipe => exact idle ⟨rfl, rfl⟩ fun _ => rfl
  | loadRun => exact h.setRun_free _ rfl
  | loadItem c r x tag key st => exact h.withItem r tag key st
  | loadDone => exact h.setRun_free _ rfl
  | unload c r => exact h.unload r
  | closeRun => exact h.setRun_free _ rfl
  | resetPasses => exact h.setRun_free _ rfl
  | forceRelease p run r => exact h.releaseClaim r _
  | divert p w v context =>
    have hset (store : ContextStore) : (s.setWand v store).PassesMarked := h.of_tables rfl rfl
    exact ((hset _).holdRun _).of_tables rfl rfl
  | claim c p w i r x => exact h.beginPass w i r x
  | sight p xs w r => exact h.sightAll r w xs
  | runEnd p run w r x k g last o hp hr hx hk hg =>
    refine h.passEnded r w k ?_ last o
    rcases hg with rfl | rfl
    · rfl
    · exact Stage.holder_eq_none.mp (stageAfterPass_holder _ _)
  | runAbandon p run w r => exact h.abandon r _
  | resume p w top rest =>
    have hset (store : ContextStore) : (s.setWand w store).PassesMarked := h.of_tables rfl rfl
    exact (hset _).resumeRun _
  | loan p tag i e => exact h.lent i e
  | takeBack p tag i e => exact h.takenBack i e
  | _ => exact h.of_tables rfl rfl

end State.PassesMarked

/-- Passes and the entries they name agree after every step where they did before it. -/
theorem passesMarked_kept : RecordInvariant State.PassesMarked where
  records _ _ e h := h.of_tables (congrArg State.pool e :) (congrArg State.runs e :)
  reset := .idle ⟨rfl, rfl⟩ fun _ => rfl
  abandon _ r y h := h.abandon r y
  advance _ h := h.advance
  close _ h := h.completeClose
  wipe _ h := h.completeWipe
  wand _ w h := h.resetWand w
  change _ _ _ hc h := h.change hc

/-- Settles O58: claims, contexts and modes, passes and their entries, and pass counts each agree after every step. -/
theorem claimsContextsAndModesAgree : Obligations.ClaimsContextsAndModesAgree := by
  refine ⟨fun s t h ht => controlAgrees_kept.step h ht, fun s t h ht => ?_, fun s t h ht => ?_⟩
  · have hkept := passesMarked_kept.step ⟨h.1, State.passesAgree_iff.mp h.2⟩ ht
    exact ⟨hkept.canonical, State.passesAgree_iff.mpr hkept.passes⟩
  · exact State.passCountsAgree_iff.mpr (countsFit_kept.step (State.passCountsAgree_iff.mp h) ht)

end Sys2Proof.Machine
end

section
/-! PROOFS. The Item Register's account (R20 to R22, R33): what of the pool and of the runs it speaks of, and what new
entries, status changes and freed entries make of it. -/
namespace Sys2Proof.Machine

/-! ## Tables: a value added and a value replaced -/

section
variable {κ α : Type} [DecidableEq κ] [LT κ] [DecidableLT κ] {k : κ} {t : List (κ × α)}

/-- Writing under a key that is not listed adds the value, in its place. -/
theorem tablePut_perm_new (v : α) (h : tableGet k t = none) : (tablePut k v t).Perm ((k, v) :: t) := by
  induction t with
  | nil => exact .refl _
  | cons x xs ih =>
    obtain ⟨j, w⟩ := x
    have hne : ¬ j = k := fun hj => by simp [tableGet, hj] at h
    simp only [tableGet, if_neg hne] at h
    simp only [tablePut, if_neg (Ne.symm hne)]
    split_ifs
    · exact .refl _
    · exact ((ih h).cons _).trans (.swap ..)

/-- Writing under a listed key counts the new value in place of the old one. -/
theorem tablePut_countP_listed (ko : KeyOrder κ) {w : α} (v : α) (p : κ × α → Bool) (hs : tableSorted t = true)
    (h : tableGet k t = some w) :
    (tablePut k v t).countP p + (if p (k, w) then 1 else 0) = t.countP p + if p (k, v) then 1 else 0 := by
  induction t with
  | nil => cases h
  | cons x xs ih =>
    obtain ⟨j, u⟩ := x
    by_cases hj : j = k
    · subst hj
      obtain rfl : u = w := by simpa [tableGet] using h
      simp only [tablePut, if_neg (ko.irrefl j), if_true, List.countP_cons]
      omega
    · simp only [tableGet, if_neg hj] at h
      have hjk : j < k := tableSorted_head_lt ko hs _ (tableGet_mem h)
      have hkj : ¬ k < j := fun hk => ko.irrefl _ (ko.trans _ _ _ hk hjk)
      have hrest := ih (tableSorted_tail hs) h
      simp only [tablePut, if_neg hkj, if_neg (Ne.symm hj), List.countP_cons]
      omega

end

/-! ## What the account reads of the pool and of the runs -/

/-- An entry's tag, key and home run. -/
def Entry.place (e : Entry) : Tag × ShelfKey × RunNo := (e.tag, e.key, e.homeRun)

/-- The places of the entries, by index. -/
def State.places (s : State) : List (Nat × Tag × ShelfKey × RunNo) := s.pool.map fun x => (x.1, x.2.place)

/-- The places of the entries with their statuses, by index. -/
def State.items (s : State) : List (Nat × (Tag × ShelfKey × RunNo) × Status) :=
  s.pool.map fun x => (x.1, x.2.place, x.2.status)

/-- A run's limits and its part of the Item Register. -/
def LoadedRun.register (x : LoadedRun) : ShelfKey × ShelfKey × Shelf := (x.lower, x.upper, x.shelf)

def State.registers (s : State) (r : RunNo) : Option (ShelfKey × ShelfKey × Shelf) := (s.run r).map LoadedRun.register

/-- The limits and the entry list of a run are those of another. -/
structure LoadedRun.SameList (x y : LoadedRun) : Prop where
  lower : y.lower = x.lower
  upper : y.upper = x.upper
  entries : y.shelf.entries = x.shelf.entries

theorem State.places_of_items {s t : State} (h : t.items = s.items) : t.places = s.places := by
  have := congrArg (List.map fun x : Nat × (Tag × ShelfKey × RunNo) × Status => (x.1, x.2.1)) h
  rw [State.items, State.items, List.map_map, List.map_map] at this
  exact this

theorem State.place_eq (s : State) (i : Nat) : tableGet i s.places = (s.entry i).map Entry.place :=
  tableGet_map (fun x : Nat × Entry => x.2.place) i s.pool

theorem State.keysOf_eq (s : State) (x : LoadedRun) :
    s.keysOf x = x.shelf.entries.filterMap fun i => (tableGet i s.places).map fun p => p.2.1 := by
  rw [State.keysOf, List.map_filterMap]
  congr 1
  funext i
  rw [State.place_eq, Option.map_map]
  rfl

theorem State.owns_iff (s : State) (i : Nat) (r : RunNo) :
    (∃ e, s.entry i = some e ∧ e.homeRun = r) ↔ ∃ p, tableGet i s.places = some p ∧ p.2.2 = r := by
  rw [State.place_eq]
  cases s.entry i <;> simp [Entry.place]

theorem State.statusCount_eq (s : State) (r : RunNo) (st : Status) :
    s.statusCount r st = s.items.countP fun x => decide (x.2.1.2.2 = r ∧ x.2.2 = st) := by
  rw [State.items, List.countP_map]
  rfl

/-- The account of a run where the places of the entries and the run's list are as before. -/
theorem State.RunAccount.transfer {s t : State} {r : RunNo} {x y : LoadedRun} (h : s.RunAccount r x)
    (hp : t.places = s.places) (hxy : x.SameList y) (ht : ∀ st, y.shelf.tallies.get st = t.statusCount r st) :
    t.RunAccount r y := by
  have hkeys : t.keysOf y = s.keysOf x := by rw [State.keysOf_eq, State.keysOf_eq, hp, hxy.entries]
  refine ⟨hxy.entries ▸ h.once, fun i => ?_, ht, ?_, ?_⟩
  · rw [hxy.entries, State.owns_iff, hp, ← State.owns_iff]
    exact h.own i
  · rw [hkeys, hxy.lower, hxy.upper]
    exact h.limits
  · rw [hkeys]
    exact h.order

namespace State.Accounted
variable {s t : State}

/-- The account where the places stay, the loaded runs stay loaded, and each run keeps its list and counts its
statuses. -/
theorem transfer (h : s.Accounted) (hc : t.Canonical) (hp : t.places = s.places)
    (hsome : ∀ r, (s.run r).isSome = true → (t.run r).isSome = true)
    (hr : ∀ r y, t.run r = some y → ∃ x, s.run r = some x ∧ x.SameList y ∧
      ∀ st, y.shelf.tallies.get st = t.statusCount r st) : t.Accounted := by
  refine ⟨hc, fun y hy => ?_, ?_, fun r y hy => ?_⟩
  · have hmem : (y.1, y.2.place) ∈ s.places := hp ▸ List.mem_map_of_mem hy
    obtain ⟨x, hx, hxy⟩ := List.mem_map.mp hmem
    have hhome : x.2.homeRun = y.2.homeRun := congrArg (fun z => z.2.2.2) hxy
    exact hhome ▸ hsome _ (h.homes x hx)
  · have htags (u : State) : (u.pool.map fun x => x.2.tag) = u.places.map fun x => x.2.1 := by
      rw [State.places, List.map_map]
      rfl
    rw [htags, hp, ← htags]
    exact h.tags
  · obtain ⟨x, hx, hxy, ht⟩ := hr r y hy
    exact (h.runs r x hx).transfer hp hxy ht

/-- The account reads the items of the pool and the registers of the runs alone. -/
theorem congr (h : s.Accounted) (hc : t.Canonical) (hi : t.items = s.items) (hr : t.registers = s.registers) :
    t.Accounted := by
  have hrun (r : RunNo) : (t.run r).map LoadedRun.register = (s.run r).map LoadedRun.register := congrFun hr r
  refine h.transfer hc (State.places_of_items hi) (fun r hs => ?_) fun r y hy => ?_
  · rw [← Option.isSome_map (f := LoadedRun.register), hrun r, Option.isSome_map]
    exact hs
  · obtain ⟨x, hx, hxy⟩ := Option.map_eq_some_iff.mp ((hrun r).symm.trans (congrArg _ hy))
    refine ⟨x, hx, ⟨(congrArg Prod.fst hxy).symm, (congrArg (fun z => z.2.1) hxy).symm,
      (congrArg (fun z => z.2.2.entries) hxy).symm⟩, fun st => ?_⟩
    have hshelf : y.shelf = x.shelf := (congrArg (fun z => z.2.2) hxy).symm
    rw [State.statusCount_eq, hi, ← State.statusCount_eq, hshelf]
    exact (h.runs r x hx).tallies st

end State.Accounted

/-! ## Operations that leave the registers -/

theorem State.registers_of_runs {s t : State} (h : t.runs = s.runs) : t.registers = s.registers := by
  funext r
  simp only [State.registers, State.run, h]

theorem State.registers_updateRun_same (s : State) (r : RunNo) {f : LoadedRun → LoadedRun}
    (hf : ∀ x, (f x).register = x.register) : (s.updateRun r f).registers = s.registers := by
  funext q
  simp only [State.registers, State.run_updateRun]
  split_ifs with hq
  · subst hq
    rw [Option.map_map]
    exact congrArg (Option.map · _) (funext hf)
  · rfl

theorem State.registers_setRun_same {s : State} {r : RunNo} {x y : LoadedRun} (hr : s.run r = some x)
    (h : y.register = x.register) : (s.setRun r y).registers = s.registers := by
  funext q
  simp only [State.registers, State.run_setRun]
  split_ifs with hq
  · rw [hq, hr, Option.map_some, Option.map_some, h]
  · rfl

theorem State.registers_updatePass (s : State) (r : RunNo) (f : PassRecord → PassRecord) :
    (s.updatePass r f).registers = s.registers := s.registers_updateRun_same r fun _ => rfl

/-- An entry that stays the same item leaves the items. -/
theorem State.items_updateEntry {s : State} (hs : tableSorted s.pool = true) (i : Nat) {f : Entry → Entry}
    (hf : ∀ e, Entry.SameItem e (f e)) : (s.updateEntry i f).items = s.items := by
  cases he : s.entry i with
  | none => rw [State.updateEntry_none he]
  | some e =>
    rw [State.updateEntry_some he, State.items]
    dsimp only
    rw [tablePut_listed natOrder hs he, List.map_map, State.items]
    refine List.map_congr_left fun x hx => ?_
    by_cases hi : x.1 = i
    · have hx' : s.entry i = some x.2 := tableGet_of_mem natOrder hs (hi ▸ hx)
      obtain rfl : x.2 = e := Option.some.inj (hx'.symm.trans he)
      have hsame := hf x.2
      simp [hi, Entry.place, hsame.tag, hsame.key, hsame.homeRun, hsame.status]
    · simp [hi]

/-! ## A status change (R33, R34) -/

theorem Tallies.get_modify (t : Tallies) (f : Nat → Nat) (a b : Status) :
    (t.modify f a).get b = if a = b then f (t.get b) else t.get b := by
  cases a <;> cases b <;> rfl

theorem Tallies.get_rise (t : Tallies) (a b : Status) : (t.rise a).get b = t.get b + if a = b then 1 else 0 := by
  rw [Tallies.rise, Tallies.get_modify]
  split_ifs <;> rfl

theorem Tallies.get_move (t : Tallies) (old new b : Status) :
    (t.move old new).get b = (if old = b then t.get b - 1 else t.get b) + if new = b then 1 else 0 := by
  rw [Tallies.move, Tallies.get_rise, Tallies.get_modify]

/-- The counts of the statuses after one entry's status changes. -/
theorem State.statusCount_put {s : State} (hs : tableSorted s.pool = true) {i : Nat} {e f : Entry}
    (he : s.entry i = some e) (r : RunNo) (st : Status) :
    ({ s with pool := tablePut i f s.pool } : State).statusCount r st + (if e.homeRun = r ∧ e.status = st then 1 else 0) =
      s.statusCount r st + if f.homeRun = r ∧ f.status = st then 1 else 0 := by
  have := tablePut_countP_listed natOrder f (fun x => decide (x.2.homeRun = r ∧ x.2.status = st)) hs he
  simp only [decide_eq_true_eq] at this
  exact this

theorem State.places_put {s : State} (hs : tableSorted s.pool = true) {i : Nat} {e f : Entry} (he : s.entry i = some e)
    (hf : f.place = e.place) : ({ s with pool := tablePut i f s.pool } : State).places = s.places := by
  rw [State.places]
  dsimp only
  rw [tablePut_listed natOrder hs he, List.map_map, State.places]
  refine List.map_congr_left fun x hx => ?_
  by_cases hi : x.1 = i
  · have hx' : s.entry i = some x.2 := tableGet_of_mem natOrder hs (hi ▸ hx)
    obtain rfl : x.2 = e := Option.some.inj (hx'.symm.trans he)
    simp [hi, hf]
  · simp [hi]

theorem State.Accounted.setStatus {s : State} (h : s.Accounted) (i : Nat) (st : Status) : (s.setStatus i st).Accounted := by
  cases he : s.entry i with
  | none => rwa [State.setStatus, he]
  | some e =>
    by_cases hst : e.status = st
    · rwa [State.setStatus_same he hst]
    · have hc := h.canonical.setStatus i st
      rw [State.setStatus_move he hst] at hc ⊢
      have hcount (r : RunNo) (b : Status) := State.statusCount_put h.canonical.1 (f := { e with status := st }) he r b
      refine h.transfer hc ?_ (fun r hr => ?_) fun r y hy => ?_
      · refine Eq.trans ?_ (State.places_put h.canonical.1 (f := { e with status := st }) he rfl)
        simp [State.places]
      · rw [State.run_updateRun]
        split_ifs with hq
        · rw [Option.isSome_map, ← hq]
          exact hr
        · exact hr
      · have hpool (b : Status) : State.statusCount (State.updateRun { s with pool := tablePut i { e with status := st } s.pool }
            e.homeRun fun x => { x with shelf := { x.shelf with tallies := x.shelf.tallies.move e.status st } }) r b =
            State.statusCount { s with pool := tablePut i { e with status := st } s.pool } r b := by
          simp [State.statusCount]
        rw [State.run_updateRun] at hy
        split_ifs at hy with hq
        · subst hq
          obtain ⟨x, hx, rfl⟩ := Option.map_eq_some_iff.mp hy
          have hx' : s.run e.homeRun = some x := hx
          refine ⟨x, hx', ⟨rfl, rfl, rfl⟩, fun b => ?_⟩
          have hb := hcount e.homeRun b
          have htally := (h.runs _ x hx').tallies b
          simp only [true_and] at hb
          rw [hpool, Tallies.get_move, htally]
          by_cases hb' : e.status = b
          · rw [if_pos hb', if_neg (hb' ▸ Ne.symm hst)] at hb ⊢
            omega
          · rw [if_neg hb'] at hb ⊢
            omega
        · have hx' : s.run r = some y := hy
          refine ⟨y, hx', ⟨rfl, rfl, rfl⟩, fun b => ?_⟩
          have hb := hcount r b
          simp only [Ne.symm hq, false_and, if_false] at hb
          rw [hpool, (h.runs r y hx').tallies b]
          omega

end Sys2Proof.Machine
end

section
/-! PROOFS. The Item Register's account and the Stray List beside it, kept by every step: items loaded, runs unloaded, the
close, and all that leaves the register. -/
namespace Sys2Proof.Machine

/-! ## An item loaded (R25, R26) -/

/-- What the load checks find of a key that passes them. -/
theorem State.loadCheck_none {s : State} {x : LoadedRun} {tag : Tag} {key : ShelfKey}
    (h : s.loadCheck x tag key = none) : betweenLimits key x.lower x.upper = .eq ∧
      (∀ last ∈ s.lastLoadedKey x, compareKeys key last ≠ .lt) ∧ s.lookup tag = none ∧
      s.pool.length < Config.poolPlaces ∧ x.shelf.entries.length < Config.runCapacity := by
  unfold State.loadCheck at h
  split_ifs at h with hlimits horder htag hfull
  simp only [Option.any_eq_true, beq_iff_eq, not_exists, not_and] at horder
  rw [not_or, Nat.not_le, Nat.not_le] at hfull
  exact ⟨not_not.mp hlimits, fun last hl => horder last hl, by simpa using htag, hfull⟩

theorem Entry.loaded_place (tag : Tag) (key : ShelfKey) (r : RunNo) (st : Status) (y : Option Stray) :
    (Entry.loaded tag key r st y).place = (tag, key, r) := by cases y <;> rfl

/-- What does not sort before a key does not sort before an earlier one. -/
theorem compareKeys_not_lt_trans {a b c : ShelfKey} (hab : compareKeys a b ≠ .lt) (hbc : compareKeys b c ≠ .lt) :
    compareKeys a c ≠ .lt := fun hac =>
  haveI := compareKeys_transCmp
  have hcb : compareKeys c b ≠ .gt := fun h => hbc (by rw [compareKeys_swap, h]; rfl)
  hab (Std.TransCmp.lt_of_lt_of_isLE hac (Ordering.isLE_iff_ne_gt.mpr hcb))

section
variable {s : State} {r : RunNo} {x : LoadedRun} {e : Entry}

/-- The lowest free index names no entry. -/
theorem State.Canonical.lowestFree (h : s.Canonical) : s.entry (lowestFree 0 s.pool) = none :=
  lowestFree_free 0 h.1 fun _ _ => Nat.zero_le _

theorem State.run_addEntry (s : State) (r q : RunNo) (e : Entry) :
    (s.addEntry r e).run q = if q = r then (s.run r).map fun x => { x with
      shelf := { entries := x.shelf.entries ++ [lowestFree 0 s.pool], tallies := x.shelf.tallies.rise e.status } }
      else s.run q := State.run_updateRun _ r q _

theorem State.addEntry_pool (s : State) (r : RunNo) (e : Entry) :
    (s.addEntry r e).pool = tablePut (lowestFree 0 s.pool) e s.pool := by simp [State.addEntry]

theorem State.entry_addEntry (s : State) (r : RunNo) (e : Entry) (i : Nat) :
    (s.addEntry r e).entry i = if i = lowestFree 0 s.pool then some e else s.entry i := by
  rw [State.entry, State.addEntry_pool, tableGet_put]
  rfl

/-- An indexed list of keys does not see an entry added elsewhere. -/
theorem State.Accounted.keysOf_addEntry (h : s.Accounted) (hx : s.RunAccount r x) (q : RunNo) (e : Entry) :
    x.shelf.entries.filterMap (s.addEntry q e).entry = x.shelf.entries.filterMap s.entry := by
  refine List.filterMap_congr fun i hi => ?_
  obtain ⟨f, hf, -⟩ := (hx.own i).mp hi
  rw [State.entry_addEntry, if_neg]
  rintro rfl
  rw [h.canonical.lowestFree] at hf
  cases hf

theorem State.Accounted.statusCount_addEntry (h : s.Accounted) (q : RunNo) (e : Entry) (r : RunNo) (st : Status) :
    (s.addEntry q e).statusCount r st = s.statusCount r st + if e.homeRun = r ∧ e.status = st then 1 else 0 := by
  rw [State.statusCount, State.addEntry_pool, tablePut_countP_new _ h.canonical.lowestFree, State.statusCount]
  simp only [decide_eq_true_eq]

/-- The run that takes a new last entry. -/
theorem State.Accounted.runAccount_addEntry (h : s.Accounted) (hr : s.run r = some x) (he : e.homeRun = r)
    (hlimits : betweenLimits e.key x.lower x.upper = .eq)
    (horder : ∀ last ∈ s.lastLoadedKey x, compareKeys e.key last ≠ .lt) :
    (s.addEntry r e).RunAccount r { x with
      shelf := { entries := x.shelf.entries ++ [lowestFree 0 s.pool], tallies := x.shelf.tallies.rise e.status } } := by
  have hx := h.runs r x hr
  have hfree := h.canonical.lowestFree
  have hnew : lowestFree 0 s.pool ∉ x.shelf.entries := fun hi => by
    obtain ⟨f, hf, -⟩ := (hx.own _).mp hi
    rw [hfree] at hf
    cases hf
  have hkeys : (s.addEntry r e).keysOf { x with
      shelf := { entries := x.shelf.entries ++ [lowestFree 0 s.pool], tallies := x.shelf.tallies.rise e.status } } =
      s.keysOf x ++ [e.key] := by
    rw [State.keysOf, State.keysOf, List.filterMap_append, h.keysOf_addEntry hx, List.map_append]
    simp [State.entry_addEntry]
  have hlast : (s.keysOf x).getLast? = s.lastLoadedKey x := by
    rw [State.keysOf, State.lastLoadedKey, List.getLast?_map]
    refine congrArg (Option.map _) ?_
    cases hl : x.shelf.entries.getLast? with
    | none => simp [List.getLast?_eq_none_iff.mp hl]
    | some i =>
      obtain ⟨f, hf, -⟩ := (hx.own i).mp (List.mem_of_getLast? hl)
      obtain ⟨front, hfront⟩ := List.getLast?_eq_some_iff.mp hl
      rw [hfront, List.filterMap_append]
      simp [hf]
  refine ⟨?_, fun i => ?_, fun st => ?_, ?_, ?_⟩
  · exact List.nodup_append.mpr ⟨hx.once, List.nodup_singleton _, fun a ha b hb hab =>
      hnew (List.mem_singleton.mp hb ▸ hab ▸ ha)⟩
  · rw [List.mem_append, List.mem_singleton, State.entry_addEntry]
    split_ifs with hi
    · simp [hi, he]
    · simp [hi, hx.own i]
  · rw [h.statusCount_addEntry, Tallies.get_rise, hx.tallies st]
    simp [he]
  · rw [hkeys]
    intro k hk
    rcases List.mem_append.mp hk with hk | hk
    · exact hx.limits k hk
    · rw [List.mem_singleton.mp hk]
      exact hlimits
  · rw [hkeys, List.pairwise_append]
    refine ⟨hx.order, List.pairwise_singleton _ _, fun a ha b hb => ?_⟩
    rw [List.mem_singleton.mp hb]
    cases hl : (s.keysOf x).getLast? with
    | none => rw [List.getLast?_eq_none_iff.mp hl] at ha; cases ha
    | some last =>
      have hkey : compareKeys e.key last ≠ .lt := horder last (hlast ▸ hl)
      obtain ⟨front, hfront⟩ := List.getLast?_eq_some_iff.mp hl
      have hle := hx.order
      rw [hfront, List.pairwise_append] at hle
      rw [hfront, List.mem_append, List.mem_singleton] at ha
      rcases ha with ha | rfl
      · exact compareKeys_not_lt_trans hkey (hle.2.2 a ha last (List.mem_singleton_self _))
      · exact hkey

theorem State.Accounted.addEntry (h : s.Accounted) (hr : s.run r = some x) (he : e.homeRun = r)
    (hlimits : betweenLimits e.key x.lower x.upper = .eq)
    (horder : ∀ last ∈ s.lastLoadedKey x, compareKeys e.key last ≠ .lt) (htag : s.lookup e.tag = none) :
    (s.addEntry r e).Accounted := by
  have hfree := h.canonical.lowestFree
  have hperm : (s.addEntry r e).pool.Perm ((lowestFree 0 s.pool, e) :: s.pool) :=
    State.addEntry_pool s r e ▸ tablePut_perm_new e hfree
  refine ⟨State.Canonical.updateRun (s := { s with pool := tablePut (lowestFree 0 s.pool) e s.pool }) (h.canonical.putEntry _ e) r _,
    fun z hz => ?_, ?_, fun q y hy => ?_⟩
  · have hsome (q : RunNo) (hq : (s.run q).isSome = true) : ((s.addEntry r e).run q).isSome = true := by
      rw [State.run_addEntry]
      split_ifs with hqr
      · rw [Option.isSome_map, ← hqr]
        exact hq
      · exact hq
    rcases List.mem_cons.mp (hperm.mem_iff.mp hz) with rfl | hz
    · exact hsome _ (by rw [he, hr]; rfl)
    · exact hsome _ (h.homes z hz)
  · rw [(hperm.map fun z => z.2.tag).nodup_iff]
    refine List.nodup_cons.mpr ⟨fun ht => ?_, h.tags⟩
    obtain ⟨z, hz, hzt⟩ := List.mem_map.mp ht
    exact State.lookup_none.mp htag z hz hzt
  · rw [State.run_addEntry] at hy
    split_ifs at hy with hq
    · subst hq
      rw [hr] at hy
      cases hy
      exact h.runAccount_addEntry hr he hlimits horder
    · have hy' := h.runs q y hy
      have hkeys : (s.addEntry r e).keysOf y = s.keysOf y := congrArg _ (h.keysOf_addEntry hy' r e)
      refine ⟨hy'.once, fun i => ?_, fun st => ?_, hkeys ▸ hy'.limits, hkeys ▸ hy'.order⟩
      · rw [State.entry_addEntry]
        split_ifs with hi
        · rw [hy'.own i, hi, hfree]
          simp [he, Ne.symm hq]
        · exact hy'.own i
      · rw [h.statusCount_addEntry, if_neg fun hh => hq (hh.1.symm.trans he), hy'.tallies st]
        rfl

end

/-! ## A run unloaded, and the close -/

/-- A run's list and tallies with nothing loaded. -/
theorem State.RunAccount.empty {s : State} {r : RunNo} {x : LoadedRun} (hx : x.shelf = .empty)
    (hr : ∀ z ∈ s.pool, z.2.homeRun ≠ r) : s.RunAccount r x := by
  have hentries : x.shelf.entries = [] := by rw [hx]; rfl
  have hkeys : s.keysOf x = [] := by rw [State.keysOf, hentries]; rfl
  refine ⟨hentries ▸ List.nodup_nil, fun i => ?_, fun st => ?_, by simp [hkeys], by simp [hkeys]⟩
  · rw [hentries]
    refine iff_of_false List.not_mem_nil ?_
    rintro ⟨e, he, rfl⟩
    exact hr _ (tableGet_mem he) rfl
  · have hzero : s.statusCount r st = 0 := List.countP_eq_zero.mpr fun z hz => by simp [hr z hz]
    rw [hzero, hx]
    cases st <;> rfl

namespace State.Accounted
variable {s t : State}

/-- A run that is not loaded opens with an empty list. -/
theorem openRun (h : s.Accounted) {r : RunNo} (hr : s.run r = none) {x : LoadedRun} (hx : x.shelf = .empty) :
    (s.setRun r x).Accounted := by
  have hnone (z) (hz : z ∈ s.pool) : z.2.homeRun ≠ r := fun hzr => by
    have := h.homes z hz
    rw [hzr, hr] at this
    cases this
  refine ⟨h.canonical.setRun r x, fun z hz => ?_, h.tags, fun q y hy => ?_⟩
  · rw [State.run_setRun, if_neg (hnone z hz)]
    exact h.homes z hz
  · rw [State.run_setRun] at hy
    split_ifs at hy with hq
    · subst hq
      cases hy
      exact State.RunAccount.empty (s := s.setRun q x) hx hnone
    · exact (h.runs q y hy).transfer rfl ⟨rfl, rfl, rfl⟩ (h.runs q y hy).tallies

theorem unload (h : s.Accounted) (r : RunNo) : (s.unload r).Accounted := by
  have hpool (z) : z ∈ (s.unload r).pool ↔ z ∈ s.pool ∧ z.2.homeRun ≠ r := by
    simp [State.unload, List.mem_filter]
  have hc : (s.unload r).Canonical :=
    ⟨tableSorted_filter natOrder _ h.canonical.1, tableSorted_erase runOrder r h.canonical.2⟩
  have hentry (i : Nat) (e : Entry) : (s.unload r).entry i = some e ↔ s.entry i = some e ∧ e.homeRun ≠ r :=
    ((tableGet_eq_some_iff natOrder hc.1).trans (hpool _)).trans
      (and_congr_left' (tableGet_eq_some_iff natOrder h.canonical.1).symm)
  refine ⟨hc, fun z hz => ?_, h.tags.sublist (List.filter_sublist.map _), fun q y hy => ?_⟩
  · obtain ⟨hz, hzr⟩ := (hpool z).mp hz
    rw [State.run_unload, if_neg hzr]
    exact h.homes z hz
  · rw [State.run_unload] at hy
    split_ifs at hy with hq
    have hy' := h.runs q y hy
    have hkeys : (s.unload r).keysOf y = s.keysOf y := by
      refine congrArg (List.map _) (List.filterMap_congr fun i hi => ?_)
      obtain ⟨e, he, heq⟩ := (hy'.own i).mp hi
      rw [he, (hentry i e).mpr ⟨he, heq ▸ hq⟩]
    refine ⟨hy'.once, fun i => ?_, fun st => ?_, hkeys ▸ hy'.limits, hkeys ▸ hy'.order⟩
    · rw [hy'.own i]
      refine exists_congr fun e => ?_
      rw [hentry, and_assoc]
      exact and_congr_right fun _ => ⟨fun he => ⟨he ▸ hq, he⟩, And.right⟩
    · rw [hy'.tallies st, State.statusCount, State.statusCount, State.unload]
      dsimp only
      rw [List.countP_filter]
      refine List.countP_congr fun z _ => ?_
      simp only [decide_eq_true_eq, Bool.and_eq_true, ne_eq]
      exact ⟨fun hz => ⟨hz, hz.1 ▸ hq⟩, And.left⟩

theorem get_close (u : Tallies) (b : Status) : u.close.get b =
    if b = .expected then 0 else if b = .missing then u.get .missing + u.get .expected else u.get b := by
  cases b <;> rfl

theorem close_homeRun (e : Entry) : e.close.homeRun = e.homeRun := by
  unfold Entry.close
  split <;> rfl

theorem close_status (e : Entry) : e.close.status = if e.status = .expected then .missing else e.status := by
  unfold Entry.close
  split <;> rfl

/-- The statuses counted after the close: what was EXPECTED is MISSING. -/
theorem countP_close (r : RunNo) (b : Status) (l : List (Nat × Entry)) :
    (l.map fun x => (x.1, x.2.close)).countP (fun x => decide (x.2.homeRun = r ∧ x.2.status = b)) =
      if b = .expected then 0
      else if b = .missing then l.countP (fun x => decide (x.2.homeRun = r ∧ x.2.status = .missing)) +
        l.countP (fun x => decide (x.2.homeRun = r ∧ x.2.status = .expected))
      else l.countP fun x => decide (x.2.homeRun = r ∧ x.2.status = b) := by
  induction l with
  | nil => simp
  | cons z l ih =>
    rw [List.map_cons, List.countP_cons, ih]
    simp only [List.countP_cons, close_homeRun, close_status]
    cases z.2.status <;> cases b <;> simp <;> omega

theorem completeClose (h : s.Accounted) : s.completeClose.Accounted := by
  by_cases hm : s.mode = .closing
  · have hpool : s.completeClose.pool = s.pool.map fun x => (x.1, x.2.close) := by simp [State.completeClose, hm]
    have hrun (q : RunNo) : s.completeClose.run q = (s.run q).map LoadedRun.close := by
      refine Eq.trans ?_ (State.run_mapRuns s LoadedRun.close q)
      simp [State.completeClose, hm, State.run]
    refine h.transfer h.canonical.completeClose ?_ (fun r hr => ?_) fun r y hy => ?_
    · rw [State.places, hpool, List.map_map]
      refine List.map_congr_left fun z _ => ?_
      simp only [Function.comp_apply, Entry.close]
      split <;> rfl
    · rw [hrun, Option.isSome_map]
      exact hr
    · obtain ⟨x, hx, rfl⟩ := Option.map_eq_some_iff.mp ((hrun r).symm.trans hy)
      have htally := (h.runs r x hx).tallies
      refine ⟨x, hx, ⟨rfl, rfl, rfl⟩, fun b => ?_⟩
      have hget : (LoadedRun.close x).shelf.tallies.get b = x.shelf.tallies.close.get b := rfl
      rw [hget, get_close, State.statusCount, hpool, countP_close, htally, htally, htally]
      rfl
  · rwa [State.completeClose, if_neg hm]

/-! ## What leaves the register -/

theorem of_tables (h : s.Accounted) (hp : t.pool = s.pool) (hr : t.runs = s.runs) : t.Accounted :=
  h.congr (h.canonical.congr hp hr) (by rw [State.items, hp]; rfl) (State.registers_of_runs hr)

theorem updateRun (h : s.Accounted) (r : RunNo) {f : LoadedRun → LoadedRun} (hf : ∀ x, (f x).register = x.register) :
    (s.updateRun r f).Accounted :=
  h.congr (h.canonical.updateRun r f) (by simp [State.items]) (s.registers_updateRun_same r hf)

theorem setRun (h : s.Accounted) {r : RunNo} {x y : LoadedRun} (hr : s.run r = some x) (hy : y.register = x.register) :
    (s.setRun r y).Accounted :=
  h.congr (h.canonical.setRun r y) rfl (State.registers_setRun_same hr hy)

theorem updatePass (h : s.Accounted) (r : RunNo) (f : PassRecord → PassRecord) : (s.updatePass r f).Accounted :=
  h.updateRun r fun _ => rfl

theorem moves {r : RunNo} {w : WandPort} (h : s.Accounted) (hm : Moves r w s t) : t.Accounted := by
  refine hm.keep (P := State.Accounted) (fun a b hab ha => ?_) h
  cases hab with
  | offer d => exact ha.of_tables (by simp) (by simp)
  | prompt n => exact ha.of_tables rfl rfl
  | entry i f hf =>
    exact ha.congr (ha.canonical.updateEntry i f) (State.items_updateEntry ha.canonical.1 i hf)
      (State.registers_of_runs (by simp))
  | status i st => exact ha.setStatus i st
  | withdraw i =>
    unfold State.withdraw
    split
    · exact ha.updatePass _ _
    · exact ha
  | pass f hf => exact ha.updatePass r f
  | accept n => exact ha.updateRun r fun _ => rfl
  | addStray y => exact ha.of_tables (by simp) (by simp)
  | strays f => exact ha.of_tables rfl rfl

theorem abandon (h : s.Accounted) (r : RunNo) (y : Reason) : (s.abandon r y).Accounted := by
  cases hc : s.claim? r with
  | none => rwa [State.abandon_free hc]
  | some k =>
    obtain ⟨x, hr, hg⟩ := State.claim_some.mp hc
    rw [State.abandon_eq hr (Stage.claim_some.mpr hg)]
    exact (h.setRun hr (y := x.abandoned k s.config.passLimit y) rfl).of_tables (State.offer_pool _ _)
      (State.offer_runs _ _)

theorem releaseClaim (h : s.Accounted) (r : RunNo) (y : Reason) : (s.releaseClaim r y).Accounted := by
  unfold State.releaseClaim
  split
  · exact (h.abandon r y).of_tables rfl rfl
  · exact h

theorem resetWand (h : s.Accounted) (w : WandPort) : (s.resetWand w).Accounted :=
  of_tables (State.foldl_abandon_keeps (P := State.Accounted) (fun _ r ht => ht.abandon r .portReset)
    (s.wand w).claims h) rfl rfl

theorem advance (h : s.Accounted) : s.advance.Accounted := by
  refine h.congr h.canonical.advance (by simp [State.items]) ?_
  have htick (t : State) : t.tickTimers.registers = t.registers := by
    funext q
    rw [State.registers, State.run_tickTimers, Option.map_map]
    rfl
  unfold State.advance
  split
  · exact htick _
  all_goals rfl

theorem completeWipe (h : s.Accounted) : s.completeWipe.Accounted := by
  unfold State.completeWipe
  split
  · exact h.of_tables (by simp) (by simp)
  · exact h

theorem holdRun (h : s.Accounted) (a : Option RunNo) : (s.holdRun a).Accounted := by
  cases a with
  | none => exact h
  | some r => exact h.updateRun r fun _ => rfl

theorem resumeRun (h : s.Accounted) (a : Option RunNo) : (s.resumeRun a).Accounted := by
  cases a with
  | none => exact h
  | some r => exact h.updateRun r fun _ => rfl

/-- Nothing loaded. -/
theorem nothing (hp : s.pool = []) (hr : s.runs = []) : s.Accounted := by
  have hrun (r : RunNo) : s.run r = none := by simp [State.run, hr, tableGet]
  exact ⟨⟨by rw [hp]; rfl, by rw [hr]; rfl⟩, by simp [hp], by simp [hp], fun r x hx => by rw [hrun] at hx; cases hx⟩

theorem withItem (h : s.Accounted) {r : RunNo} {x : LoadedRun} {tag : Tag} {key : ShelfKey} (st : Status)
    (hr : s.run r = some x) (hcheck : s.loadCheck x tag key = none) : (s.withItem r tag key st).Accounted := by
  obtain ⟨hlimits, horder, htag, -⟩ := State.loadCheck_none hcheck
  have hplace := Entry.loaded_place tag key r st (s.strayOf tag)
  have hhome : (Entry.loaded tag key r st (s.strayOf tag)).homeRun = r := congrArg (fun z => z.2.2) hplace
  have hkey : (Entry.loaded tag key r st (s.strayOf tag)).key = key := congrArg (fun z => z.2.1) hplace
  have htags : (Entry.loaded tag key r st (s.strayOf tag)).tag = tag := congrArg Prod.fst hplace
  have hstrays : ({ s with strays := s.strays.filter fun y => y.tag ≠ tag } : State).Accounted := h.of_tables rfl rfl
  exact hstrays.addEntry hr hhome (by rw [hkey]; exact hlimits) (by rw [hkey]; exact horder) (by rw [htags]; exact htag)

theorem change {c : Instr} (h : s.Accounted) (hc : Change s c t) : t.Accounted := by
  cases hc with
  | none => exact h
  | wipe => exact nothing rfl rfl
  | loadRun c r lo hi length hr => exact h.openRun hr rfl
  | loadItem c r x tag key st hr hx hcheck => exact h.withItem st hr hcheck
  | loadDone c r x hr => exact h.setRun hr rfl
  | unload c r => exact h.unload r
  | closeRun c r x hr => exact h.setRun hr rfl
  | resetPasses c r x hr => exact h.setRun hr rfl
  | forceRelease p run r => exact h.releaseClaim r _
  | divert p w v context =>
    have hset (store : ContextStore) : (s.setWand v store).Accounted := h.of_tables rfl rfl
    exact ((hset _).holdRun _).of_tables rfl rfl
  | claim c p w i r x hc hp hm hr =>
    have hserial : ({ s with passSerial := s.passSerial + 1 } : State).Accounted := h.of_tables rfl rfl
    have hclaim (k : Claim) := hserial.setRun (r := r) (x := x)
      (y := { x with passCount := x.passCount + 1, stage := .claimed k }) hr rfl
    exact (hclaim _).of_tables rfl rfl
  | sight p xs w r => exact h.moves (sightAll_moves s r w xs)
  | runEnd p run w r x k g last o =>
    exact ((h.moves (judgePassEnd_moves (r := r) (w := w) k.pass)).updateRun r
      (f := fun x => { x with stage := g, lastPass := last }) fun _ => rfl).of_tables rfl rfl
  | runAbandon p run w r => exact h.abandon r _
  | resume p w top rest =>
    have hset (store : ContextStore) : (s.setWand w store).Accounted := h.of_tables rfl rfl
    exact (hset _).resumeRun _
  | loan p tag i e => exact h.moves (lent_moves s 0 .lp0 i e)
  | takeBack p tag i e => exact h.moves (takenBack_moves s 0 .lp0 i e)
  | _ => exact h.of_tables rfl rfl

end State.Accounted

/-- The register's account holds after every step where it held before it. -/
theorem accounted_kept : RecordInvariant State.Accounted where
  records _ _ e h := h.of_tables (congrArg State.pool e :) (congrArg State.runs e :)
  reset := .nothing rfl rfl
  abandon _ r y h := h.abandon r y
  advance _ h := h.advance
  close _ h := h.completeClose
  wipe _ h := h.completeWipe
  wand _ w h := h.resetWand w
  change _ _ _ hc h := h.change hc

end Sys2Proof.Machine
end

section
/-! PROOFS. The Stray List beside the pool (R22, R27, R104), kept by every step; with the register's account. -/
namespace Sys2Proof.Machine

namespace State.StraysApart
variable {s t : State}

/-- The tags of the pool are no more than before, and those of the strays are the same. -/
theorem tags (h : s.StraysApart) (hs : (t.strays.map fun y => y.tag) = s.strays.map fun y => y.tag)
    (hp : ∀ x ∈ t.pool, ∃ z ∈ s.pool, x.2.tag = z.2.tag) : t.StraysApart := by
  refine ⟨hs ▸ h.once, fun y hy x hx => ?_⟩
  obtain ⟨z, hz, hxz⟩ := hp x hx
  have hmem : y.tag ∈ s.strays.map fun y => y.tag := hs ▸ List.mem_map_of_mem hy
  obtain ⟨y', hy', hyy⟩ := List.mem_map.mp hmem
  rw [hxz, ← hyy]
  exact h.unlisted y' hy' z hz

theorem congr (h : s.StraysApart) (hs : t.strays = s.strays) (hp : t.pool = s.pool) : t.StraysApart :=
  h.tags (by rw [hs]) fun x hx => ⟨x, hp ▸ hx, rfl⟩

theorem updateEntry (h : s.StraysApart) (i : Nat) {f : Entry → Entry} (hf : ∀ e, (f e).tag = e.tag) :
    (s.updateEntry i f).StraysApart := by
  cases he : s.entry i with
  | none => rwa [State.updateEntry_none he]
  | some e =>
    rw [State.updateEntry_some he]
    refine h.tags rfl fun x hx => ?_
    rcases tablePut_mem hx with rfl | hx
    · exact ⟨(i, e), tableGet_mem he, hf e⟩
    · exact ⟨x, hx, rfl⟩

theorem setStatus (h : s.StraysApart) (i : Nat) (st : Status) : (s.setStatus i st).StraysApart := by
  unfold State.setStatus
  split
  · split
    · exact h
    · exact (h.updateEntry i (f := fun e => { e with status := st }) fun _ => rfl).congr (by simp) (by simp)
  · exact h

/-- A stray joins the list that neither the pool nor the list knows. -/
theorem addStray (h : s.StraysApart) {y : Stray} (hl : s.lookup y.tag = none) (hn : s.strayOf y.tag = none) :
    (s.addStray y).StraysApart := by
  have hnew : ∀ z ∈ s.strays, z.tag ≠ y.tag := by simpa [State.strayOf] using hn
  have hstrays : (s.addStray y).strays = s.strays ++ [y] := by
    unfold State.addStray
    dsimp only
    split <;> rfl
  refine ⟨?_, fun z hz x hx => ?_⟩
  · rw [hstrays, List.map_append]
    refine List.nodup_append.mpr ⟨h.once, List.nodup_singleton _, fun a ha b hb hab => ?_⟩
    obtain ⟨z, hz, rfl⟩ := List.mem_map.mp ha
    exact hnew z hz (hab.trans (List.mem_singleton.mp hb))
  · rw [State.addStray_pool] at hx
    rw [hstrays, List.mem_append, List.mem_singleton] at hz
    rcases hz with hz | rfl
    · exact h.unlisted z hz x hx
    · exact State.lookup_none.mp hl x hx

theorem moves {r : RunNo} {w : WandPort} (h : s.StraysApart) (hm : Moves r w s t) : t.StraysApart := by
  refine hm.keep (P := State.StraysApart) (fun a b hab ha => ?_) h
  cases hab with
  | offer d => exact ha.congr (by simp) (by simp)
  | prompt n => exact ha.congr rfl rfl
  | entry i f hf => exact ha.updateEntry i fun e => (hf e).tag
  | status i st => exact ha.setStatus i st
  | withdraw i => exact ha.congr (by simp) (by simp)
  | pass f hf => exact ha.congr (by simp) (by simp)
  | accept n => exact ha.congr (by simp) (by simp)
  | addStray y hl hn hr => exact ha.addStray hl hn
  | strays f hf =>
    refine ha.tags ?_ fun x hx => ⟨x, hx, rfl⟩
    simp [Function.comp_def, hf]

/-- An item loaded takes its tag out of the list. -/
theorem withItem (h : s.StraysApart) (r : RunNo) (tag : Tag) (key : ShelfKey) (st : Status) :
    (s.withItem r tag key st).StraysApart := by
  have htag : (Entry.loaded tag key r st (s.strayOf tag)).tag = tag :=
    congrArg Prod.fst (Entry.loaded_place tag key r st (s.strayOf tag))
  have hstrays : (s.withItem r tag key st).strays = s.strays.filter fun y => y.tag ≠ tag := by
    simp [State.withItem, State.addEntry]
  refine ⟨?_, fun y hy x hx => ?_⟩
  · rw [hstrays]
    exact h.once.sublist (List.filter_sublist.map _)
  · rw [hstrays, List.mem_filter] at hy
    obtain ⟨hy, hne⟩ := hy
    rw [State.withItem, State.addEntry_pool] at hx
    rcases tablePut_mem hx with rfl | hx
    · rw [htag]
      exact Ne.symm (by simpa using hne)
    · exact h.unlisted y hy x hx

theorem completeClose (h : s.StraysApart) : s.completeClose.StraysApart := by
  unfold State.completeClose
  split
  · refine h.tags (by simp) fun x hx => ?_
    simp only [State.raiseOpDone_pool, State.enterMode_pool] at hx
    obtain ⟨z, hz, rfl⟩ := List.mem_map.mp hx
    refine ⟨z, hz, ?_⟩
    simp only [Entry.close]
    split <;> rfl
  · exact h

theorem change {c : Instr} (h : s.StraysApart) (hc : Change s c t) : t.StraysApart := by
  cases hc with
  | wipe => exact ⟨List.nodup_nil, nofun⟩
  | loadItem c r x tag key st => exact h.withItem r tag key st
  | unload c r => exact h.tags rfl fun x hx => ⟨x, List.mem_of_mem_filter hx, rfl⟩
  | forceRelease => exact h.congr (by simp) (by simp)
  | divert => exact h.congr (by simp [State.diverted]) (by simp [State.diverted])
  | claim => exact h.congr (by simp) (by simp)
  | sight p xs w r => exact h.moves (sightAll_moves s r w xs)
  | runEnd p run w r x k g last o =>
    exact (h.moves (judgePassEnd_moves (r := r) (w := w) k.pass)).congr (by simp [State.passEnded])
      (by simp [State.passEnded])
  | runAbandon => exact h.congr (by simp) (by simp)
  | resume => exact h.congr (by simp [State.resumed]) (by simp [State.resumed])
  | loan p tag i e => exact h.moves (lent_moves s 0 .lp0 i e)
  | takeBack p tag i e => exact h.moves (takenBack_moves s 0 .lp0 i e)
  | _ => exact h.congr rfl rfl

theorem resetWand (h : s.StraysApart) (w : WandPort) : (s.resetWand w).StraysApart :=
  congr (State.foldl_abandon_keeps (P := State.StraysApart) (fun _ r ht => ht.congr (State.abandon_strays _ r .portReset)
    (State.abandon_pool _ r .portReset)) (s.wand w).claims h) rfl rfl

end State.StraysApart

/-- The Stray List stays apart from the pool at every step. -/
theorem straysApart_kept : RecordInvariant State.StraysApart where
  records _ _ e h := h.congr (congrArg State.strays e :) (congrArg State.pool e :)
  reset := ⟨List.nodup_nil, nofun⟩
  abandon _ _ _ h := h.congr (by simp) (by simp)
  advance _ h := h.congr (by simp) (by simp)
  close _ h := h.completeClose
  wipe _ h := by
    unfold State.completeWipe
    split
    · exact h.congr (by simp) (by simp)
    · exact h
  wand _ w h := h.resetWand w
  change _ _ _ hc h := h.change hc

/-- Settles O57: the account and the separation of the strays are each kept by every change of the records. -/
theorem registerAccountIsKept : Obligations.RegisterAccountIsKept :=
  ⟨fun _ _ h ht => accounted_kept.step h ht, fun _ _ h ht => straysApart_kept.step h ht⟩

end Sys2Proof.Machine
end

section
/-! PROOFS. What the commands make of the link ports: the serving of a request and the effects of the clock raise notices on
ports, or set a mask, and touch nothing else of a port; and the invariants of single ports. -/
namespace Sys2Proof.Machine

/-! ## Notices raised on a port -/

/-- One notice raised on a port, or its mask set. -/
inductive Notice (q : LinkPort) : LinkPort → Prop
  | held (n) : Notice q (q.raiseHeld n)
  | prompt (n) : Notice q (q.raisePrompt n)
  | mask (m) : Notice q { q with mask := m }

/-- Notices raised one after another. -/
abbrev Notices : LinkPort → LinkPort → Prop := Relation.ReflTransGen Notice

/-- What each notice keeps of a port, notices keep. -/
theorem Notices.keep {Q : LinkPort → Prop} (hQ : ∀ q q', Notice q q' → Q q → Q q') {q q' : LinkPort} (h : Notices q q')
    (hq : Q q) : Q q' := by
  induction h with
  | refl => exact hq
  | tail _ hn ih => exact hQ _ _ hn ih

theorem Notice.inbox {q q' : LinkPort} (h : Notice q q') : q'.inbox = q.inbox := by
  cases h with
  | held n => rfl
  | prompt n => rw [LinkPort.raisePrompt_frame]
  | mask m => rfl

theorem Notice.line {q q' : LinkPort} (h : Notice q q') : q'.line = q.line := by
  cases h with
  | held n => rfl
  | prompt n => rw [LinkPort.raisePrompt_frame]
  | mask m => rfl

theorem Notice.receiver {q q' : LinkPort} (h : Notice q q') : q'.receiver = q.receiver := by
  cases h with
  | held n => rfl
  | prompt n => rw [LinkPort.raisePrompt_frame]
  | mask m => rfl

theorem Notices.inbox {q q' : LinkPort} (h : Notices q q') : q'.inbox = q.inbox :=
  h.keep (Q := fun p => p.inbox = q.inbox) (fun _ _ hn hp => hn.inbox.trans hp) rfl

theorem Notices.line {q q' : LinkPort} (h : Notices q q') : q'.line = q.line :=
  h.keep (Q := fun p => p.line = q.line) (fun _ _ hn hp => hn.line.trans hp) rfl

theorem Notices.receiver {q q' : LinkPort} (h : Notices q q') : q'.receiver = q.receiver :=
  h.keep (Q := fun p => p.receiver = q.receiver) (fun _ _ hn hp => hn.receiver.trans hp) rfl

/-! ## Notices raised on the ports of the part -/

/-- Each port is as before but for notices raised on it and its mask. -/
def State.Noted (s t : State) : Prop := ∀ p, Notices (s.port p) (t.port p)

namespace State.Noted
variable {s t u : State}

theorem refl (s : State) : s.Noted s := fun _ => .refl

theorem trans (h : s.Noted t) (h' : t.Noted u) : s.Noted u := fun p => (h p).trans (h' p)

theorem of_ports (h : t.ports = s.ports) : s.Noted t := fun p => by
  rw [State.port, State.port, h]

theorem updatePort (s : State) (p : Port) {f : LinkPort → LinkPort} (hf : Notice (s.port p) (f (s.port p))) :
    s.Noted (s.updatePort p f) := fun q => by
  rw [State.port_updatePort]
  split_ifs with hq
  · subst hq
    exact .single hf
  · exact .refl

theorem notify (s : State) (p : Port) (n : HeldNotice) : s.Noted (s.notify p n) := .updatePort s p (.held n)

theorem prompt (s : State) (w : WandPort) (n : Prompt) : s.Noted (s.prompt w n) := .updatePort s w.port (.prompt n)

theorem enterMode (s : State) (m : Mode) : s.Noted (s.enterMode m) := fun p => by
  rw [State.port_enterMode]
  exact .single (.held _)

theorem offer (s : State) (d : Discrepancy) : s.Noted (s.offer d) := by
  unfold State.offer
  split_ifs
  · exact .of_ports rfl
  · exact .trans (t := { s with discrepancies := s.discrepancies ++ [d] }) (.of_ports rfl) (.notify _ _ _)
  · exact .of_ports rfl

theorem raiseOpDone (s : State) (op : Operation) : s.Noted (s.raiseOpDone op) := by
  unfold State.raiseOpDone
  split_ifs
  · exact .refl s
  · exact .notify s _ _

theorem addStray (s : State) (y : Stray) : s.Noted (s.addStray y) := by
  unfold State.addStray
  dsimp only
  split_ifs
  · exact .trans (t := { s with strays := s.strays ++ [y] }) (.of_ports rfl) (.notify _ _ _)
  · exact .of_ports rfl

theorem moves {r : RunNo} {w : WandPort} (h : Moves r w s t) : s.Noted t := by
  refine h.keep (P := s.Noted) (fun a b hab ha => ha.trans ?_) (.refl s)
  cases hab with
  | offer d => exact .offer a d
  | prompt n => exact .prompt a w n
  | entry i f hf => exact .of_ports (by simp)
  | status i st => exact .of_ports (by simp)
  | withdraw i => exact .of_ports (by simp)
  | pass f hf => exact .of_ports (by simp)
  | accept n => exact .of_ports (by simp)
  | addStray y => exact .addStray a y
  | strays f => exact .of_ports rfl

theorem abandon (s : State) (r : RunNo) (y : Reason) : s.Noted (s.abandon r y) := by
  cases hc : s.claim? r with
  | none =>
    rw [State.abandon_free hc]
    exact .refl s
  | some k =>
    obtain ⟨x, hr, hg⟩ := State.claim_some.mp hc
    rw [State.abandon_eq hr (Stage.claim_some.mpr hg)]
    have hwritten : s.Noted ((s.setRun r (x.abandoned k s.config.passLimit y)).setWand k.claimant
      ((s.wand k.claimant).release r)) := .of_ports rfl
    exact (hwritten.trans (.offer _ _)).trans (.notify _ _ _)

theorem releaseClaim (s : State) (r : RunNo) (y : Reason) : s.Noted (s.releaseClaim r y) := by
  unfold State.releaseClaim
  split
  · exact (Noted.abandon s r y).trans (.notify _ _ _)
  · exact .refl s

theorem advance (s : State) : s.Noted s.advance := .of_ports (by simp)

theorem completeClose (s : State) : s.Noted s.completeClose := by
  unfold State.completeClose
  split_ifs
  · dsimp only
    exact Noted.trans (t := { s with
      pool := s.pool.map fun x => (x.1, x.2.close)
      runs := s.runs.map fun x => (x.1, x.2.close)
      operation := none }) (.of_ports rfl) ((Noted.enterMode _ _).trans (.raiseOpDone _ _))
  · exact .refl s

theorem completeWipe (s : State) : s.Noted s.completeWipe := by
  unfold State.completeWipe
  split_ifs
  · exact Noted.trans (t := { s with operation := none }) (.of_ports rfl)
      ((Noted.enterMode _ _).trans (.raiseOpDone _ _))
  · exact .refl s

/-- An admitted request touches the ports by notices alone, and by the mask that SET_MASK sets. -/
theorem change {c : Instr} (h : Change s c t) : s.Noted t := by
  cases h with
  | none => exact .refl s
  | configure => exact .of_ports rfl
  | enter c m => exact .enterMode s m
  | close => exact (Noted.enterMode s .closing).trans (.of_ports rfl)
  | wipe => exact (Noted.enterMode s .wiping).trans (.of_ports rfl)
  | deviceReset => exact .of_ports rfl
  | loadRun => exact .of_ports rfl
  | loadItem => exact .of_ports (by simp [State.withItem, State.addEntry])
  | loadDone => exact .of_ports rfl
  | unload => exact .of_ports rfl
  | closeRun => exact .of_ports rfl
  | resetPasses => exact .of_ports rfl
  | forceRelease p run r => exact .releaseClaim s r _
  | readRecord => exact .of_ports rfl
  | setDivert => exact .of_ports rfl
  | divert p w v context => exact Noted.trans (.of_ports (by simp)) (.notify _ v.port _)
  | window => exact .of_ports rfl
  | claim => exact .of_ports (by simp)
  | sight p xs w r => exact .moves (sightAll_moves s r w xs)
  | runEnd p run w r x k g last o =>
    exact (Noted.moves (judgePassEnd_moves (r := r) (w := w) k.pass)).trans
      (Noted.trans (.of_ports (by simp)) (.notify _ .lp5 _))
  | runAbandon p run w r => exact .abandon s r _
  | resume => exact .of_ports (by simp [State.resumed])
  | setMask p kinds mask => exact .updatePort s p (.mask mask)
  | loan p tag i e => exact .moves (lent_moves s 0 .lp0 i e)
  | takeBack p tag i e => exact .moves (takenBack_moves s 0 .lp0 i e)

theorem resetWand (s : State) (w : WandPort) : s.Noted (s.resetWand w) := by
  have hfold : s.Noted ((s.wand w).claims.foldl (fun s r => s.abandon r .portReset) s) :=
    State.foldl_abandon_keeps (P := s.Noted) (fun t r ht => ht.trans (.abandon t r _)) _ (.refl s)
  exact hfold.trans (.of_ports rfl)

end State.Noted

/-! ## Invariants of single ports -/

/-- What notices, answers, bytes, the line and resets must keep of a port. -/
structure PortInvariant (Q : LinkPort → Prop) : Prop where
  default : Q .default
  notice : ∀ q q', Notice q q' → Q q → Q q'
  respond : ∀ q r, Q q → Q (q.respond r)
  byte : ∀ q b, Q q → Q (q.receiveByte b)
  hunt : ∀ q : LinkPort, Q q → Q { q with receiver := .hunting }
  choose : ∀ q, Q q → Q q.choose
  endFrame : ∀ q, Q q → Q q.endFrame

/-- Every port has a property. -/
def State.PortsAll (Q : LinkPort → Prop) (s : State) : Prop := ∀ p, Q (s.port p)

namespace PortInvariant
variable {Q : LinkPort → Prop} {s t : State}

theorem reset (inv : PortInvariant Q) : State.reset.PortsAll Q := fun p => by
  cases p <;> exact inv.default

theorem noted (inv : PortInvariant Q) (h : s.PortsAll Q) (ht : s.Noted t) : t.PortsAll Q :=
  fun p => (ht p).keep inv.notice (h p)

theorem updatePort (h : s.PortsAll Q) (p : Port) {f : LinkPort → LinkPort} (hf : Q (s.port p) → Q (f (s.port p))) :
    (s.updatePort p f).PortsAll Q := fun q => by
  rw [State.port_updatePort]
  split_ifs
  · exact hf (h p)
  · exact h q

theorem kick (inv : PortInvariant Q) (h : s.PortsAll Q) : s.kick.PortsAll Q := fun p => by
  rw [State.port_kick]
  exact inv.choose _ (h p)

theorem settle (inv : PortInvariant Q) (h : s.PortsAll Q) : s.settle.PortsAll Q :=
  State.settle_keeps (P := State.PortsAll Q) (fun _ => inv.kick) (fun t r ht => inv.noted ht (.releaseClaim t r _)) h

theorem bytes (inv : PortInvariant Q) (l : List Byte) {q : LinkPort} (h : Q q) : Q (l.foldl LinkPort.receiveByte q) := by
  induction l generalizing q with
  | nil => exact h
  | cons b l ih => exact ih (inv.byte q b h)

theorem receive (inv : PortInvariant Q) (h : s.PortsAll Q) (p : Port) (l : List Byte) : (s.receive p l).PortsAll Q := by
  unfold State.receive
  split_ifs
  · exact updatePort h p (inv.bytes l)
  · exact h

theorem request (inv : PortInvariant Q) (c : Instr) (h : s.PortsAll Q) : (request c (serving c) s).PortsAll Q :=
  request_keeps (P := State.PortsAll Q) (fun _ => inv.settle) (fun _ p l ht => inv.receive ht p l)
    (fun _ p r ht => updatePort ht p (inv.respond _ r)) (fun _ => inv.kick)
    (fun _ _ _ _ hc hrole hm ht => inv.noted ht (.change (serving_change hc hrole hm))) h

theorem powerOn (inv : PortInvariant Q) (s : State) (receiving : Bool) (pins : Pins) :
    ({ s.powerOnValues receiving with pins := pins } : State).PortsAll Q := inv.reset

theorem resetPort (inv : PortInvariant Q) (h : s.PortsAll Q) (p : Port) : (s.resetPort p).PortsAll Q := by
  have hport : (s.updatePort p fun _ => .default).PortsAll Q := updatePort h p fun _ => inv.default
  unfold State.resetPort
  dsimp only
  split_ifs
  · exact inv.reset
  · split
    · exact inv.noted hport (.resetWand _ _)
    · exact hport

theorem effect (inv : PortInvariant Q) {c : Instr} {f : State → State} (hc : effect c = some f) (s : State)
    (h : s.PortsAll Q) : (f s).PortsAll Q := by
  cases c <;> cases hc
  case closeCompletion => exact inv.noted h (.completeClose s)
  case wipeCompletion => exact inv.noted h (.completeWipe s)
  case deviceResetEffect =>
    unfold State.takeDeviceReset
    split
    · exact inv.reset
    · exact h
  case sectionClockAdvance => exact inv.noted h (.advance s)
  case claimExpiry => exact h
  case frameReceived p bytes => exact inv.receive h p _
  case frameRejected p =>
    dsimp only [State.rejectFrame]
    split
    · exact h
    split
    · exact updatePort h p (inv.respond _ _)
    · exact h
  case frameTimeout p => exact updatePort h p (inv.hunt _)
  case transmitFrameEnd p =>
    dsimp only [State.transmitEnd]
    split
    · exact inv.reset
    · exact updatePort h p (inv.endFrame _)
  case portReset p =>
    dsimp only [State.takeBreak]
    split
    · exact h
    · exact inv.resetPort (s := s.setBreak p true) h p
  case startByte p => exact inv.receive h p _
  case frameLengthInvalid p length => exact inv.receive h p _
  case breakEnd => exact h
  case receiveEnable =>
    dsimp only [State.enableReceive]
    split
    · exact h
    · intro q
      exact (congrArg Q (PortMap.get_map _ _ q)).mpr (inv.hunt _ (h q))

/-- Every command keeps an invariant of single ports. -/
theorem exec (inv : PortInvariant Q) {c : Instr} (ht : exec c s = .next t) (h : s.PortsAll Q) : t.PortsAll Q := by
  cases taken_of_exec ht with
  | request hc => exact inv.request c h
  | event hc => exact event_keeps (P := State.PortsAll Q) (fun _ => inv.settle) (fun _ => inv.kick) (inv.effect hc) h
  | level p low hc hlow => exact h
  | reset pins hc => exact inv.reset
  | release hc hlow => exact h

/-- Every step keeps an invariant of single ports. -/
theorem step (inv : PortInvariant Q) (h : s.PortsAll Q) (ht : step s = .next t) : t.PortsAll Q := by
  unfold Machine.step at ht
  split at ht
  · cases ht
    exact h
  · next c rest hp => exact inv.exec (s := { s with pending := rest }) ht h

end PortInvariant

end Sys2Proof.Machine
end

section
/-! PROOFS. Capacities, canonical form and busy lines, kept by every step. -/
namespace Sys2Proof.Machine

/-! ## The slots of a port -/

theorem respondFirst_buffered (r : Response) (l : List Slot) :
    (respondFirst r l).map (·.buffered) = l.map (·.buffered) := by
  induction l with
  | nil => rfl
  | cons x l ih =>
    unfold respondFirst
    split_ifs
    · rfl
    · rw [List.map_cons, List.map_cons, ih]

theorem respondFirst_mem {r : Response} {l : List Slot} {y : Slot} (h : y ∈ respondFirst r l) :
    y ∈ l ∨ ∃ x ∈ l, y = { x with phase := .waiting r } := by
  induction l with
  | nil => exact .inl h
  | cons x l ih =>
    unfold respondFirst at h
    split_ifs at h
    · rcases List.mem_cons.mp h with rfl | h
      · exact .inr ⟨x, List.mem_cons_self, rfl⟩
      · exact .inl (List.mem_cons_of_mem _ h)
    · rcases List.mem_cons.mp h with rfl | h
      · exact .inl List.mem_cons_self
      · exact (ih h).imp (List.mem_cons_of_mem _) fun ⟨z, hz, hy⟩ => ⟨z, List.mem_cons_of_mem _ hz, hy⟩

/-- A BUSY answer that waits. -/
def Slot.busy (x : Slot) : Bool := !x.buffered && x.phase.isWaiting

/-- Where every turned-away frame is answered, an answer goes to a frame of the buffer. -/
theorem respondFirst_busy (r : Response) {l : List Slot} (h : ∀ x ∈ l, x.buffered = false → x.phase ≠ .unhandled) :
    (respondFirst r l).countP Slot.busy = l.countP Slot.busy := by
  induction l with
  | nil => rfl
  | cons x l ih =>
    unfold respondFirst
    split_ifs with hx
    · have hb : x.buffered = true := by
        by_contra hb
        exact h x List.mem_cons_self (by simpa using hb) hx
      simp [Slot.busy, hb]
    · rw [List.countP_cons, List.countP_cons, ih fun y hy => h y (List.mem_cons_of_mem _ hy)]

/-- The earliest waiting response goes on the line, and the other slots stay. -/
theorem sendFirst_some {l l' : List Slot} (h : sendFirst l = some l') :
    ∃ front x r back, l = front ++ x :: back ∧ x.phase = .waiting r ∧
      l' = front ++ { x with phase := .sending r } :: back := by
  induction l generalizing l' with
  | nil => cases h
  | cons x l ih =>
    unfold sendFirst at h
    split at h
    · next r hr =>
      cases h
      exact ⟨[], x, r, l, rfl, hr, rfl⟩
    · obtain ⟨l'', hl, rfl⟩ := Option.map_eq_some_iff.mp h
      obtain ⟨front, y, r, back, rfl, hy, rfl⟩ := ih hl
      exact ⟨x :: front, y, r, back, rfl, hy, rfl⟩

theorem removeSending_sublist (l : List Slot) : (removeSending l).Sublist l := by
  induction l with
  | nil => exact .refl _
  | cons x l ih =>
    unfold removeSending
    split_ifs
    · exact List.sublist_cons_self _ _
    · exact ih.cons_cons x

/-- What an idle line chooses. -/
theorem LinkPort.choose_cases (q : LinkPort) : q.choose = q ∨
    (∃ l, sendFirst q.inbox = some l ∧ q.choose = { q with inbox := l, line := .response }) ∨
    (∃ n rest, q.prompts = n :: rest ∧ q.choose = { q with prompts := rest, line := .prompt n }) ∨
    ∃ k n, q.choose = { q with held := q.held.drop k, line := .held n } := by
  unfold LinkPort.choose
  split
  · split
    · next l hl => exact .inr (.inl ⟨l, hl, rfl⟩)
    · split
      · next n rest hp => exact .inr (.inr (.inl ⟨n, rest, hp, rfl⟩))
      · split
        · split
          · exact .inr (.inr (.inr ⟨_, _, rfl⟩))
          · exact .inl rfl
        · exact .inl rfl
  · exact .inl rfl

/-! ## The bounds of a port -/

theorem LinkPort.buffer_length (q : LinkPort) : q.buffer.length = (q.inbox.map (·.buffered)).countP id := by
  rw [LinkPort.buffer, ← List.countP_eq_length_filter, List.countP_map]
  rfl

theorem LinkPort.busyWaiting_length (q : LinkPort) : q.busyWaiting.length = q.inbox.countP Slot.busy :=
  List.countP_eq_length_filter.symm

namespace LinkPort.Bounded
variable {q q' : LinkPort}

/-- The bounds speak of the prompts and the slots alone. -/
theorem congr (h : q.Bounded) (hi : q'.inbox = q.inbox) (hp : q'.prompts.length ≤ Config.promptCapacity) :
    q'.Bounded := by
  refine ⟨hp, ?_, ?_, ?_⟩
  · rw [LinkPort.buffer_length, hi, ← LinkPort.buffer_length]
    exact h.buffer
  · rw [LinkPort.busyWaiting_length, hi, ← LinkPort.busyWaiting_length]
    exact h.busy
  · rw [hi]
    exact h.answered

theorem default : LinkPort.default.Bounded where
  prompts := Nat.zero_le _
  buffer := Nat.zero_le _
  busy := Nat.zero_le _
  answered _ hx := absurd hx List.not_mem_nil

theorem raisePrompt (h : q.Bounded) (n : Prompt) : (q.raisePrompt n).Bounded := by
  refine h.congr (by rw [LinkPort.raisePrompt_frame]) ?_
  unfold LinkPort.raisePrompt
  split_ifs with hm hl
  · exact h.prompts
  · simp only [List.length_append, List.length_singleton]
    omega
  · exact h.prompts

theorem notice (h : q.Bounded) (hn : Notice q q') : q'.Bounded := by
  cases hn with
  | held n => exact h.congr rfl h.prompts
  | prompt n => exact h.raisePrompt n
  | mask m => exact h.congr rfl h.prompts

theorem respond (h : q.Bounded) (r : Response) : (q.respond r).Bounded := by
  refine ⟨h.prompts, ?_, ?_, fun y hy hb => ?_⟩
  · rw [LinkPort.buffer_length, LinkPort.respond_inbox, respondFirst_buffered, ← LinkPort.buffer_length]
    exact h.buffer
  · rw [LinkPort.busyWaiting_length, LinkPort.respond_inbox, respondFirst_busy r h.answered,
      ← LinkPort.busyWaiting_length]
    exact h.busy
  · rcases respondFirst_mem hy with hy | ⟨x, -, rfl⟩
    · exact h.answered y hy hb
    · exact nofun

theorem offerFrame (h : q.Bounded) (f : Frame) : (q.offerFrame f).Bounded := by
  unfold LinkPort.offerFrame
  split_ifs with hbuf hbusy
  · refine ⟨h.prompts, ?_, ?_, fun y hy hb => ?_⟩
    · rw [LinkPort.buffer_length] at hbuf ⊢
      simpa using hbuf
    · have := h.busy
      rw [LinkPort.busyWaiting_length] at this ⊢
      simpa [Slot.busy] using this
    · rcases List.mem_append.mp hy with hy | hy
      · exact h.answered y hy hb
      · rw [List.mem_singleton.mp hy] at hb
        cases hb
  · refine ⟨h.prompts, ?_, ?_, fun y hy hb => ?_⟩
    · have := h.buffer
      rw [LinkPort.buffer_length] at this ⊢
      simpa using this
    · rw [LinkPort.busyWaiting_length] at hbusy ⊢
      simpa [Slot.busy, SlotPhase.isWaiting] using hbusy
    · rcases List.mem_append.mp hy with hy | hy
      · exact h.answered y hy hb
      · rw [List.mem_singleton.mp hy]
        exact nofun
  · exact h

theorem receiver (h : q.Bounded) (r : Receiver) : LinkPort.Bounded { q with receiver := r } := h.congr rfl h.prompts

theorem receiveByte (h : q.Bounded) (b : Byte) : (q.receiveByte b).Bounded := by
  unfold LinkPort.receiveByte
  split
  · split_ifs
    · exact h.receiver _
    · exact h
  · split_ifs <;> exact h.receiver _
  · split_ifs <;> exact h.receiver _
  · dsimp only
    split_ifs
    · exact (h.receiver _).offerFrame _
    · exact h.receiver _

theorem choose (h : q.Bounded) : q.choose.Bounded := by
  rcases q.choose_cases with hc | ⟨l, hl, hc⟩ | ⟨n, rest, hp, hc⟩ | ⟨k, n, hc⟩ <;> rw [hc]
  · exact h
  · obtain ⟨front, x, r, back, hq, hx, rfl⟩ := sendFirst_some hl
    have hbuf := h.buffer
    have hbusy := h.busy
    have hans := h.answered
    rw [LinkPort.buffer_length, hq] at hbuf
    rw [LinkPort.busyWaiting_length, hq] at hbusy
    rw [hq] at hans
    refine ⟨h.prompts, ?_, ?_, fun y hy hb => ?_⟩
    · rw [LinkPort.buffer_length]
      simpa using hbuf
    · rw [LinkPort.busyWaiting_length]
      simp only [List.countP_append, List.countP_cons, Slot.busy, hx, SlotPhase.isWaiting] at hbusy ⊢
      simp
      omega
    · rcases List.mem_append.mp hy with hy | hy
      · exact hans y (List.mem_append_left _ hy) hb
      · rcases List.mem_cons.mp hy with rfl | hy
        · exact nofun
        · exact hans y (List.mem_append_right _ (List.mem_cons_of_mem _ hy)) hb
  · refine h.congr rfl ?_
    have := h.prompts
    rw [hp] at this
    exact Nat.le_of_succ_le this
  · exact h.congr rfl h.prompts

theorem endFrame (h : q.Bounded) : q.endFrame.Bounded := by
  unfold LinkPort.endFrame
  split
  · have hsub := removeSending_sublist q.inbox
    refine ⟨h.prompts, (hsub.filter _).length_le.trans h.buffer, (hsub.filter _).length_le.trans h.busy,
      fun y hy => h.answered y (hsub.mem hy)⟩
  · exact h.congr rfl h.prompts

end LinkPort.Bounded

/-- The bounds of a port are kept. -/
theorem portBounded_kept : PortInvariant LinkPort.Bounded where
  default := .default
  notice _ _ hn h := h.notice hn
  respond _ r h := h.respond r
  byte _ b h := h.receiveByte b
  hunt _ h := h.receiver _
  choose _ h := h.choose
  endFrame _ h := h.endFrame

/-! ## The bounds of the records -/

/-- Every collection but those of the ports within its capacity, in canonical form. -/
structure State.RecordsFit (s : State) : Prop where
  canonical : s.Canonical
  pool : s.pool.length ≤ Config.poolPlaces
  runs : ∀ x ∈ s.runs, x.2.Bounded
  strays : s.strays.length ≤ Config.strayCapacity
  records : s.discrepancies.length ≤ Config.queueCapacity
  overflow : s.overflow ≤ Config.counterMax
  depths : ∀ w, (s.wand w).stack.length ≤ Config.stackCapacity

theorem saturatingSucc_le {limit n : Nat} (h : n ≤ limit) : saturatingSucc limit n ≤ limit := by
  unfold saturatingSucc
  split <;> omega

/-- A run with the length and the entries of a bounded one is bounded. -/
theorem LoadedRun.Bounded.same {x y : LoadedRun} (h : x.Bounded) (hl : y.length = x.length)
    (he : y.shelf.entries = x.shelf.entries) : y.Bounded := by
  unfold LoadedRun.Bounded
  rw [hl, he]
  exact h

namespace State.RecordsFit
variable {s t : State}

/-- The pool, the strays, the records and the stacks as they were, and the runs bounded. -/
theorem of_runs (h : s.RecordsFit) (hc : t.Canonical) (hp : t.pool.length ≤ Config.poolPlaces)
    (hr : ∀ x ∈ t.runs, x.2.Bounded) (hs : t.strays = s.strays) (hd : t.discrepancies = s.discrepancies)
    (ho : t.overflow = s.overflow) (hw : t.wands = s.wands) : t.RecordsFit :=
  ⟨hc, hp, hr, hs ▸ h.strays, hd ▸ h.records, ho ▸ h.overflow, fun w => by rw [State.wand, hw]; exact h.depths w⟩

theorem congr (h : s.RecordsFit) (hp : t.pool = s.pool) (hr : t.runs = s.runs) (hs : t.strays = s.strays)
    (hd : t.discrepancies = s.discrepancies) (ho : t.overflow = s.overflow) (hw : t.wands = s.wands) : t.RecordsFit :=
  h.of_runs (h.canonical.congr hp hr) (hp ▸ h.pool) (hr ▸ h.runs) hs hd ho hw

theorem wands (h : s.RecordsFit) (hp : t.pool = s.pool) (hr : t.runs = s.runs) (hs : t.strays = s.strays)
    (hd : t.discrepancies = s.discrepancies) (ho : t.overflow = s.overflow)
    (hw : ∀ w, (t.wand w).stack.length ≤ Config.stackCapacity) : t.RecordsFit :=
  ⟨h.canonical.congr hp hr, hp ▸ h.pool, hr ▸ h.runs, hs ▸ h.strays, hd ▸ h.records, ho ▸ h.overflow, hw⟩

theorem setRun (h : s.RecordsFit) (r : RunNo) {x : LoadedRun} (hx : x.Bounded) : (s.setRun r x).RecordsFit :=
  h.of_runs (h.canonical.setRun r x) h.pool (fun y hy => by
    rcases tablePut_mem hy with rfl | hy
    · exact hx
    · exact h.runs y hy) rfl rfl rfl rfl

theorem run (h : s.RecordsFit) {r : RunNo} {x : LoadedRun} (hr : s.run r = some x) : x.Bounded :=
  h.runs _ (tableGet_mem hr)

theorem updateRun_bounded (h : s.RecordsFit) (r : RunNo) {f : LoadedRun → LoadedRun}
    (hf : ∀ x, s.run r = some x → (f x).Bounded) : (s.updateRun r f).RecordsFit := by
  cases hr : s.run r with
  | none => rwa [State.updateRun_none hr]
  | some x =>
    rw [State.updateRun_some hr]
    exact h.setRun r (hf x hr)

theorem updateRun (h : s.RecordsFit) (r : RunNo) {f : LoadedRun → LoadedRun} (hl : ∀ x, (f x).length = x.length)
    (he : ∀ x, (f x).shelf.entries = x.shelf.entries) : (s.updateRun r f).RecordsFit :=
  h.updateRun_bounded r fun x hr => (h.run hr).same (hl x) (he x)

theorem updateEntry (h : s.RecordsFit) (i : Nat) (f : Entry → Entry) : (s.updateEntry i f).RecordsFit := by
  cases hi : s.entry i with
  | none => rwa [State.updateEntry_none hi]
  | some e =>
    rw [State.updateEntry_some hi]
    exact h.of_runs (h.canonical.putEntry i (f e))
      ((tablePut_length_listed natOrder h.canonical.1 hi).trans_le h.pool) h.runs rfl rfl rfl rfl

theorem setStatus (h : s.RecordsFit) (i : Nat) (st : Status) : (s.setStatus i st).RecordsFit := by
  unfold State.setStatus
  split
  · split
    · exact h
    · exact (h.updateEntry i _).updateRun _ (fun _ => rfl) fun _ => rfl
  · exact h

theorem offer (h : s.RecordsFit) (d : Discrepancy) : (s.offer d).RecordsFit := by
  refine ⟨h.canonical.offer d, by simpa using h.pool, by simpa using h.runs, by simpa using h.strays, ?_, ?_, fun w => ?_⟩
  · by_cases hfull : s.discrepancies.length < 256
    · rw [(State.offer_joins d hfull).1, List.length_append]
      exact hfull
    · rw [(State.offer_drops d (Nat.le_of_not_lt hfull)).1]
      exact h.records
  · by_cases hfull : s.discrepancies.length < 256
    · rw [(State.offer_joins d hfull).2]
      exact h.overflow
    · rw [(State.offer_drops d (Nat.le_of_not_lt hfull)).2]
      exact saturatingSucc_le h.overflow
  · rw [State.wand, State.offer_wands]
    exact h.depths w

theorem addStray (h : s.RecordsFit) (y : Stray) (hroom : s.strays.length < Config.strayCapacity) :
    (s.addStray y).RecordsFit := by
  have hadded : ({ s with strays := s.strays ++ [y] } : State).RecordsFit :=
    ⟨h.canonical, h.pool, h.runs, by simpa using hroom, h.records, h.overflow, h.depths⟩
  unfold State.addStray
  dsimp only
  split
  · exact hadded.congr rfl rfl rfl rfl rfl rfl
  · exact hadded

theorem moves {r : RunNo} {w : WandPort} (h : s.RecordsFit) (hm : Moves r w s t) : t.RecordsFit := by
  refine hm.keep (P := State.RecordsFit) (fun a b hab ha => ?_) h
  cases hab with
  | offer d => exact ha.offer d
  | prompt n => exact ha.congr rfl rfl rfl rfl rfl rfl
  | entry i f hf => exact ha.updateEntry i f
  | status i st => exact ha.setStatus i st
  | withdraw i =>
    unfold State.withdraw
    split
    · exact ha.updateRun _ (fun _ => rfl) fun _ => rfl
    · exact ha
  | pass f hf => exact ha.updateRun r (fun _ => rfl) fun _ => rfl
  | accept n => exact ha.updateRun r (fun _ => rfl) fun _ => rfl
  | addStray y hl hn hr => exact ha.addStray y hr
  | strays f hf =>
    exact ⟨ha.canonical, ha.pool, ha.runs, (List.length_map _).trans_le ha.strays, ha.records, ha.overflow, ha.depths⟩

theorem setWand (h : s.RecordsFit) (w : WandPort) {c : ContextStore} (hc : c.stack.length ≤ Config.stackCapacity) :
    (s.setWand w c).RecordsFit := h.wands rfl rfl rfl rfl rfl fun v => by
  rw [State.wand_setWand]
  split_ifs
  · exact hc
  · exact h.depths v

theorem updateContext (h : s.RecordsFit) (w : WandPort) (f : Context → Context) : (s.updateContext w f).RecordsFit :=
  h.setWand w (h.depths w)

theorem abandon (h : s.RecordsFit) (r : RunNo) (y : Reason) : (s.abandon r y).RecordsFit := by
  cases hc : s.claim? r with
  | none => rwa [State.abandon_free hc]
  | some k =>
    obtain ⟨x, hr, hg⟩ := State.claim_some.mp hc
    rw [State.abandon_eq hr (Stage.claim_some.mpr hg)]
    have hwritten := h.setRun r ((h.run hr).same (y := x.abandoned k s.config.passLimit y) rfl rfl)
    have hreleased := hwritten.setWand k.claimant (c := (s.wand k.claimant).release r)
      (by simpa [ContextStore.release] using h.depths k.claimant)
    exact (hreleased.offer _).congr rfl rfl rfl rfl rfl rfl

theorem releaseClaim (h : s.RecordsFit) (r : RunNo) (y : Reason) : (s.releaseClaim r y).RecordsFit := by
  unfold State.releaseClaim
  split
  · exact (h.abandon r y).congr rfl rfl rfl rfl rfl rfl
  · exact h

theorem resetWand (h : s.RecordsFit) (w : WandPort) : (s.resetWand w).RecordsFit :=
  setWand (State.foldl_abandon_keeps (P := State.RecordsFit) (fun _ r ht => ht.abandon r .portReset) (s.wand w).claims h)
    w (Nat.zero_le _)

theorem holdRun (h : s.RecordsFit) (a : Option RunNo) : (s.holdRun a).RecordsFit := by
  cases a with
  | none => exact h
  | some r => exact h.updateRun r (fun _ => rfl) fun _ => rfl

theorem resumeRun (h : s.RecordsFit) (a : Option RunNo) : (s.resumeRun a).RecordsFit := by
  cases a with
  | none => exact h
  | some r => exact h.updateRun r (fun _ => rfl) fun _ => rfl

/-- Every run changed, but for its length and its entries. -/
theorem mapRuns (h : s.RecordsFit) (hc : t.Canonical) (f : LoadedRun → LoadedRun) (hl : ∀ x, (f x).length = x.length)
    (he : ∀ x, (f x).shelf.entries = x.shelf.entries) (hp : t.pool.length = s.pool.length)
    (hr : t.runs = s.runs.map fun x => (x.1, f x.2)) (hs : t.strays = s.strays)
    (hd : t.discrepancies = s.discrepancies) (ho : t.overflow = s.overflow) (hw : t.wands = s.wands) :
    t.RecordsFit := by
  refine h.of_runs hc (hp.trans_le h.pool) (fun x hx => ?_) hs hd ho hw
  rw [hr] at hx
  obtain ⟨y, hy, rfl⟩ := List.mem_map.mp hx
  exact (h.runs y hy).same (hl y.2) (he y.2)

theorem advance (h : s.RecordsFit) : s.advance.RecordsFit := by
  have hc := h.canonical.advance
  unfold State.advance at hc ⊢
  split at hc
  · exact h.mapRuns hc LoadedRun.ticked (fun _ => rfl) (fun _ => rfl) rfl rfl rfl rfl rfl rfl
  all_goals exact h.congr rfl rfl rfl rfl rfl rfl

theorem completeClose (h : s.RecordsFit) : s.completeClose.RecordsFit := by
  by_cases hm : s.mode = .closing
  · refine h.mapRuns h.canonical.completeClose LoadedRun.close (fun _ => rfl) (fun _ => rfl) ?_ ?_ ?_ ?_ ?_ ?_ <;>
      simp [State.completeClose, hm]
  · rwa [State.completeClose, if_neg hm]

theorem completeWipe (h : s.RecordsFit) : s.completeWipe.RecordsFit := by
  unfold State.completeWipe
  split
  · exact h.congr (by simp) (by simp) (by simp) (by simp) (by simp) (by simp)
  · exact h

theorem withItem (h : s.RecordsFit) {r : RunNo} {x : LoadedRun} {tag : Tag} {key : ShelfKey} (st : Status)
    (hr : s.run r = some x) (hcheck : s.loadCheck x tag key = none) : (s.withItem r tag key st).RecordsFit := by
  obtain ⟨-, -, -, hpool, hroom⟩ := State.loadCheck_none hcheck
  obtain ⟨hmin, hmax, -⟩ := h.run hr
  generalize he : Entry.loaded tag key r st (s.strayOf tag) = e
  have hput : ({ s with
      strays := s.strays.filter fun y => y.tag ≠ tag
      pool := tablePut (lowestFree 0 s.pool) e s.pool } : State).RecordsFit :=
    ⟨h.canonical.putEntry _ e, (tablePut_length_le s.pool).trans hpool, h.runs,
      List.filter_sublist.length_le.trans h.strays, h.records, h.overflow, h.depths⟩
  have hbounded : LoadedRun.Bounded { x with
      shelf := { entries := x.shelf.entries ++ [lowestFree 0 s.pool], tallies := x.shelf.tallies.rise e.status } } :=
    ⟨hmin, hmax, by simpa using hroom⟩
  rw [State.withItem, he]
  refine hput.updateRun_bounded r fun y hy => ?_
  cases hr.symm.trans hy
  exact hbounded

/-- Nothing loaded and nothing listed. -/
theorem nothing (hp : s.pool = []) (hr : s.runs = []) (hs : s.strays = []) (hd : s.discrepancies = [])
    (ho : s.overflow = 0) (hw : ∀ w, (s.wand w).stack = []) : s.RecordsFit :=
  ⟨⟨by rw [hp]; rfl, by rw [hr]; rfl⟩, by simp [hp], by simp [hr], by simp [hs], by simp [hd], by simp [ho],
    fun w => by simp [hw]⟩

theorem opened_bounded (lo hi : ShelfKey) (length : U16) : (LoadedRun.opened lo hi length).Bounded := by
  have := clampTo_range (low := Config.lengthMin) (high := Config.lengthMax)
    (x := length.toNat) (by decide)
  exact ⟨this.1, this.2, Nat.zero_le _⟩

theorem change {c : Instr} (h : s.RecordsFit) (hc : Change s c t) : t.RecordsFit := by
  cases hc with
  | none => exact h
  | wipe => exact nothing rfl rfl rfl rfl rfl fun w => by cases w <;> rfl
  | loadRun c r lo hi length => exact h.setRun r (opened_bounded lo hi length)
  | loadItem c r x tag key st hr hx hcheck => exact h.withItem st hr hcheck
  | loadDone c r x hr => exact h.setRun r ((h.run hr).same rfl rfl)
  | unload c r =>
    exact h.of_runs (h.canonical.change (.unload c r _ ‹_› ‹_›)) (List.filter_sublist.length_le.trans h.pool)
      (fun x hx => h.runs x (List.mem_of_mem_filter hx)) rfl rfl rfl rfl
  | closeRun c r x hr => exact h.setRun r ((h.run hr).same rfl rfl)
  | resetPasses c r x hr => exact h.setRun r ((h.run hr).same rfl rfl)
  | forceRelease p run r => exact h.releaseClaim r _
  | readRecord c d rest hd =>
    refine ⟨h.canonical, h.pool, h.runs, h.strays, ?_, h.overflow, h.depths⟩
    have := h.records
    rw [hd] at this
    exact Nat.le_of_succ_le this
  | setDivert p w a b d v context => exact h.setWand v (h.depths v)
  | divert p w v context hv =>
    have hset := h.setWand v (c := { current := context.context, stack := (s.wand v).current :: (s.wand v).stack,
                                     slot := none }) hv
    exact (hset.holdRun _).congr rfl rfl rfl rfl rfl rfl
  | window c p k payload w f => exact h.updateContext w f
  | claim c p w i r x hc hp hm hr =>
    have hserial : ({ s with passSerial := s.passSerial + 1 } : State).RecordsFit := h.congr rfl rfl rfl rfl rfl rfl
    have hclaim (k : Claim) := hserial.setRun r
      ((h.run hr).same (y := { x with passCount := x.passCount + 1, stage := .claimed k }) rfl rfl)
    exact (hclaim _).updateContext w fun c => { c with cursor := some i, claimedRun := some r }
  | sight p xs w r => exact h.moves (sightAll_moves s r w xs)
  | runEnd p run w r x k g last o =>
    have hj := (h.moves (judgePassEnd_moves (r := r) (w := w) k.pass)).updateRun r
      (f := fun x => { x with stage := g, lastPass := last }) (fun _ => rfl) fun _ => rfl
    exact (hj.updateContext w fun c => { c with claimedRun := none }).congr rfl rfl rfl rfl rfl rfl
  | runAbandon p run w r => exact h.abandon r _
  | resume p w top rest hp hfree hstack =>
    have hdepth := h.depths w
    rw [hstack] at hdepth
    exact (h.setWand w (c := { s.wand w with current := top, stack := rest }) (Nat.le_of_succ_le hdepth)).resumeRun _
  | loan p tag i e => exact h.moves (lent_moves s 0 .lp0 i e)
  | takeBack p tag i e => exact h.moves (takenBack_moves s 0 .lp0 i e)
  | _ => exact h.congr rfl rfl rfl rfl rfl rfl

end State.RecordsFit

/-- The records fit after every step where they did before it. -/
theorem recordsFit_kept : RecordInvariant State.RecordsFit where
  records _ _ e h := h.congr (congrArg State.pool e :) (congrArg State.runs e :) (congrArg State.strays e :)
    (congrArg State.discrepancies e :) (congrArg State.overflow e :) (congrArg State.wands e :)
  reset := .nothing rfl rfl rfl rfl rfl fun w => by rw [State.reset_wand]; rfl
  abandon _ r y h := h.abandon r y
  advance _ h := h.advance
  close _ h := h.completeClose
  wipe _ h := h.completeWipe
  wand _ w h := h.resetWand w
  change _ _ _ hc h := h.change hc

/-! ## Lines -/

theorem State.linesBusy_iff {s : State} : s.LinesBusy ↔ ∀ p, (s.port p).choose = s.port p := by
  constructor
  · intro h p
    rw [← State.port_kick, h]
  · intro h
    have hports : s.ports.map LinkPort.choose = s.ports := PortMap.ext_get fun p => by
      rw [PortMap.get_map]
      exact h p
    unfold State.LinesBusy State.kick
    rw [hports]

theorem State.LinesBusy.of_ports {s t : State} (h : s.LinesBusy) (hp : t.ports = s.ports) : t.LinesBusy := by
  rw [State.linesBusy_iff] at h ⊢
  intro p
  rw [State.port, hp]
  exact h p

/-- Every command lets the idle lines choose. -/
theorem linesBusy_exec {c : Instr} {s t : State} (ht : exec c s = .next t) (h : s.LinesBusy) : t.LinesBusy := by
  have hreset (receiving : Bool) (pins : Pins) :
      ({ s.powerOnValues receiving with pins := pins } : State).LinesBusy := rfl
  cases taken_of_exec ht with
  | request hc =>
    unfold request
    split
    · exact h
    · split_ifs
      · exact h
      all_goals exact State.kick_kick _
  | event hc =>
    unfold event
    split_ifs
    · exact h
    · exact State.kick_kick _
  | level p low hc hlow => exact h.of_ports rfl
  | reset pins hc => exact hreset false pins
  | release hc hlow => exact h

theorem linesBusy_step {s t : State} (h : s.LinesBusy) (ht : step s = .next t) : t.LinesBusy := by
  unfold Machine.step at ht
  split at ht
  · cases ht
    exact h
  · exact linesBusy_exec ht (h.of_ports rfl)

/-- The bounds are those of the records and those of the ports. -/
theorem State.bounded_iff {s : State} : s.Canonical ∧ s.Bounded ↔ s.RecordsFit ∧ s.PortsAll LinkPort.Bounded :=
  ⟨fun ⟨hc, h⟩ => ⟨⟨hc, h.pool, h.runs, h.strays, h.records, h.overflow, h.depths⟩, h.ports⟩,
    fun ⟨h, hp⟩ => ⟨h.canonical, h.pool, h.runs, h.strays, h.records, h.overflow, h.depths, hp⟩⟩

/-- Settles O56: the bounds of the records and of the ports are invariants, and every command ends with the lines
choosing. -/
theorem capacitiesAndLinesAreKept : Obligations.CapacitiesAndLinesAreKept := by
  rintro s t ⟨hc, hb, hl⟩ ht
  obtain ⟨hrecords, hports⟩ := State.bounded_iff.mp ⟨hc, hb⟩
  obtain ⟨hc', hb'⟩ := State.bounded_iff.mpr ⟨recordsFit_kept.step hrecords ht, portBounded_kept.step hports ht⟩
  exact ⟨hc', hb', linesBusy_step hl ht⟩

end Sys2Proof.Machine
end

section
/-! PROOFS. The machine, and the answering of requests: every command answers a next state and leaves the queue; roles and
modes; one answer to each request. -/
namespace Sys2Proof.Machine

/-! ## Steps and commands -/

/-- Settles O1: by the definition of a step. -/
theorem stepTakesTheFrontCommand : Obligations.StepTakesTheFrontCommand :=
  ⟨fun _ _ _ => rfl, fun _ => rfl⟩

/-- Every command answers a next state. -/
theorem exec_next (c : Instr) (s : State) : ∃ t, exec c s = .next t := by
  cases c <;> exact ⟨_, rfl⟩

theorem Moves.pending {r : RunNo} {w : WandPort} {s t : State} (h : Moves r w s t) : t.pending = s.pending :=
  h.view _ fun _ _ hm => by cases hm <;> simp

theorem Change.pending {s t : State} {c : Instr} (h : Change s c t) : t.pending = s.pending := by
  cases h with
  | loadItem => simp [State.withItem, State.addEntry]
  | forceRelease => simp
  | divert => simp [State.diverted]
  | claim => simp
  | sight p xs w r => exact (sightAll_moves s r w xs).pending
  | runEnd p run w r x k =>
    exact (State.updateRun_pending _ _ _).trans (judgePassEnd_moves (s := s) (r := r) (w := w) k.pass).pending
  | runAbandon => simp
  | resume => simp [State.resumed]
  | loan p tag i e => exact (lent_moves s 0 .lp0 i e).pending
  | takeBack p tag i e => exact (takenBack_moves s 0 .lp0 i e).pending
  | _ => rfl

/-- What abandonments and the context stores do not show, a port reset of a wand leaves. -/
theorem State.resetWand_view {β : Type} (v : State → β) (ha : ∀ s r, v (s.abandon r .portReset) = v s)
    (hw : ∀ s w c, v (s.setWand w c) = v s) (s : State) (w : WandPort) : v (s.resetWand w) = v s :=
  (hw _ w _).trans (State.foldl_abandon_keeps (P := fun t => v t = v s) (fun t r ht => (ha t r).trans ht) _ rfl)

@[simp] theorem State.resetWand_pending (s : State) (w : WandPort) : (s.resetWand w).pending = s.pending :=
  State.resetWand_view State.pending (by simp) (by simp) s w
@[simp] theorem State.resetWand_resetScheduled (s : State) (w : WandPort) :
    (s.resetWand w).resetScheduled = s.resetScheduled := State.resetWand_view State.resetScheduled (by simp) (by simp) s w

theorem effect_pending {c : Instr} {f : State → State} (hc : effect c = some f) (s : State) :
    (f s).pending = s.pending := by
  cases c <;> cases hc
  case deviceResetEffect =>
    unfold State.takeDeviceReset
    split <;> rfl
  case transmitFrameEnd p =>
    dsimp only [State.transmitEnd]
    split <;> rfl
  case portReset p =>
    dsimp only [State.takeBreak]
    split
    · rfl
    · dsimp only [State.resetPort]
      split_ifs
      · cases p.wand? <;> simp [State.powerOnValues]
      · cases p.wand? <;> simp
  case receiveEnable =>
    dsimp only [State.enableReceive]
    split <;> rfl
  case closeCompletion =>
    dsimp only [State.completeClose]
    split <;> simp
  case wipeCompletion =>
    dsimp only [State.completeWipe]
    split <;> simp
  case frameRejected p =>
    dsimp only [State.rejectFrame]
    split
    · rfl
    split <;> rfl
  all_goals simp

/-- Settles O2: by the cases of what a command leaves. -/
theorem everyCommandAnswersAndLeavesTheQueue : Obligations.EveryCommandAnswersAndLeavesTheQueue := by
  intro c s
  obtain ⟨t, ht⟩ := exec_next c s
  refine ⟨t, ht, ?_⟩
  cases taken_of_exec ht with
  | request hc =>
    exact request_keeps (P := fun t => t.pending = s.pending) (fun t h => by simpa using h) (fun t p l h => by simpa using h)
      (fun _ _ _ h => h) (fun _ h => h) (fun t _ _ _ hc hrole hm h => (serving_change hc hrole hm).pending.trans h) rfl
  | event hc =>
    exact event_keeps (P := fun t => t.pending = s.pending) (fun t h => by simpa using h) (fun _ h => h)
      (fun t h => (effect_pending hc t).trans h) rfl
  | level => rfl
  | reset => rfl
  | release => rfl

/-! ## Roles and modes (R164, R152, R160) -/

/-- Settles O3: the three sets by the kinds of request, the refusal by the role test. -/
theorem rolesAdmitTheirRequestSets : Obligations.RolesAdmitTheirRequestSets :=
  ⟨fun k => by cases k <;> decide, fun k => by cases k <;> decide, fun k => by cases k <;> decide,
    fun _ _ _ _ s hc hw hs hr => (exec_request hc s).trans (congrArg _ (request_role _ hc hw hs hr))⟩

/-- Settles O4: the five tables by the kinds of request, the refusal by the mode test. -/
theorem modesAdmitTheirRequests : Obligations.ModesAdmitTheirRequests := by
  refine ⟨fun k => by cases k <;> decide, fun k => by cases k <;> decide, fun k => by cases k <;> decide,
    fun k => by cases k <;> decide, fun k m hm => ?_, fun c p k payload s x hc hw hs hr hm => ?_⟩
  · rcases hm with rfl | rfl <;> cases k <;> decide
  · exact (exec_request hc s).trans (congrArg _ (request_mode _ hc hw hs hr hm))

/-! ## One answer to each request (R149, R168) -/

/-- The frame of a slot, and its response if it has one. -/
def Slot.answer (x : Slot) : Frame × Option Response := (x.frame, x.phase.response?)

/-- A line that chooses touches no frame and no response. -/
theorem LinkPort.choose_answers (q : LinkPort) : q.choose.inbox.map Slot.answer = q.inbox.map Slot.answer := by
  rcases q.choose_cases with hc | ⟨l, hl, hc⟩ | ⟨n, rest, hp, hc⟩ | ⟨k, n, hc⟩ <;> rw [hc]
  obtain ⟨front, x, r, back, hq, hx, rfl⟩ := sendFirst_some hl
  rw [hq, List.map_append, List.map_append, List.map_cons, List.map_cons]
  simp [Slot.answer, hx, SlotPhase.response?]

theorem LinkPort.frames_eq (q : LinkPort) : q.inbox.map (·.frame) = (q.inbox.map Slot.answer).map Prod.fst := by
  rw [List.map_map]
  rfl

theorem LinkPort.lastResponse_eq (q : LinkPort) :
    q.lastResponse = (q.inbox.map Slot.answer).getLast?.bind Prod.snd := by
  rw [LinkPort.lastResponse, List.getLast?_map]
  cases q.inbox.getLast? <;> rfl

theorem SlotPhase.response_none {g : SlotPhase} : g.response? = none ↔ g = .unhandled := by
  cases g <;> simp [SlotPhase.response?]

theorem firstUnhandled_none {l : List Slot} :
    firstUnhandled l = none ↔ ∀ a ∈ l.map Slot.answer, a.2 ≠ none := by
  induction l with
  | nil => simp [firstUnhandled]
  | cons x l ih =>
    unfold firstUnhandled
    split_ifs with hx
    · simp [Slot.answer, hx, SlotPhase.response?]
    · simp only [ih, List.map_cons, List.forall_mem_cons, Slot.answer, ne_eq, SlotPhase.response_none, hx,
        not_false_eq_true, true_and]

theorem LinkPort.next_eq_none {q : LinkPort} : q.next? = none ↔ ∀ a ∈ q.inbox.map Slot.answer, a.2 ≠ none := by
  rw [← firstUnhandled_none, LinkPort.next?, Option.map_eq_none_iff]

/-- A slot awaiting the line in an otherwise empty inbox is what an idle line sends. -/
theorem LinkPort.choose_single {q : LinkPort} {f : Frame} {b : Bool} {r : Response}
    (hq : q.inbox = [{ frame := f, buffered := b, phase := .waiting r }]) (hl : q.line = .idle) :
    q.choose.sendingFrame = some r.frame := by
  simp [LinkPort.choose, hl, hq, sendFirst, LinkPort.sendingFrame, LinkPort.sendingResponse, SlotPhase.isSending,
    SlotPhase.response?]

/-- What the serving of an admitted request, or a refusal, makes of the ports. -/
theorem State.servedAt_noted {c : Instr} {p : Port} {k : RequestKind} {payload : List Byte} (s : State)
    (hc : c.request = some (p, k, payload)) : s.Noted (s.servedAt p k (serving c)).state := by
  unfold State.servedAt
  split_ifs with hrole
  · split
    · exact .refl s
    · exact .change (serving_change hc hrole ‹_›)
  · exact .refl s

/-- A request that is handled at once, as the part that its frame reaches, is served and answered. -/
theorem exec_ready {c : Instr} {p : Port} {k : RequestKind} {payload : List Byte} {s : State}
    (hc : c.request = some (p, k, payload)) (hw : c.wellFormed = true) (hs : s.Ready p) :
    exec c s = .next (((s.arrived c).servedAt p k (serving c)).state.responded c
      ((s.arrived c).servedAt p k (serving c)).condition ((s.arrived c).servedAt p k (serving c)).data) :=
  (exec_request hc s).trans (congrArg _ (request_ready _ hc hw hs))

/-- Settles O5: notices leave the inbox, so the response goes to the slot just arrived. -/
theorem eachHandledRequestIsAnsweredOnce : Obligations.EachHandledRequestIsAnsweredOnce := by
  intro c p k payload s hc hw hs
  have hnone : firstUnhandled (s.port p).inbox = none := LinkPort.next_none hs.2.2.2.1
  have hnoted := (s.arrived c).servedAt_noted hc p
  generalize hv : (s.arrived c).servedAt p k (serving c) = v at hnoted
  have hport : (s.arrived c).port p = { s.port p with inbox := (s.port p).inbox ++ [arrivalSlot k payload] } := by
    rw [State.arrived_eq hc, State.port_updatePort_self]
  have hanswered : ((v.state.port p).respond { kind := k.code, condition := v.condition, data := v.data }).inbox =
      (s.port p).inbox ++ [{ arrivalSlot k payload with
        phase := .waiting { kind := k.code, condition := v.condition, data := v.data } }] := by
    rw [LinkPort.respond_inbox, hnoted.inbox, hport]
    exact respondFirst_append _ _ _ hnone rfl
  refine ⟨_, { kind := k.code, condition := v.condition, data := v.data }, exec_ready hc hw hs, ?_⟩
  rw [hv, State.responded_eq hc, State.port_kick, State.port_updatePort_self]
  generalize hq : (v.state.port p).respond { kind := k.code, condition := v.condition, data := v.data } = q at hanswered
  have hline : q.line = (s.port p).line := by
    rw [← hq, LinkPort.respond_line, hnoted.line, hport]
  refine ⟨?_, ?_, ?_, rfl, fun hempty hidle => ?_⟩
  · rw [LinkPort.frames_eq, LinkPort.choose_answers, ← LinkPort.frames_eq, hanswered, List.map_append]
    rfl
  · rw [LinkPort.next_eq_none, LinkPort.choose_answers, hanswered, List.map_append]
    intro a ha
    rcases List.mem_append.mp ha with ha | ha
    · exact firstUnhandled_none.mp hnone a ha
    · rw [List.mem_singleton.mp ha]
      exact nofun
  · rw [LinkPort.lastResponse_eq, LinkPort.choose_answers, hanswered, List.map_append, List.map_singleton,
      List.getLast?_concat]
    rfl
  · rw [hempty] at hanswered
    exact LinkPort.choose_single hanswered (hline.trans hidle)

/-! ## A frame received and then handled -/

theorem sendFirst_append (l : List Slot) {x : Slot} (hx : x.phase = .unhandled) :
    sendFirst (l ++ [x]) = (sendFirst l).map (· ++ [x]) := by
  induction l with
  | nil => simp [sendFirst, hx]
  | cons y l ih =>
    rw [List.cons_append]
    unfold sendFirst
    split
    · rfl
    · rw [ih, Option.map_map, Option.map_map]
      rfl

/-- A frame not yet handled is nothing to a line that chooses. -/
theorem LinkPort.choose_append (q : LinkPort) {x : Slot} (hx : x.phase = .unhandled) :
    LinkPort.choose { q with inbox := q.inbox ++ [x] } = { q.choose with inbox := q.choose.inbox ++ [x] } := by
  have hheld : LinkPort.nextHeld { q with inbox := q.inbox ++ [x] } = q.nextHeld := rfl
  by_cases hl : q.line = .idle
  · unfold LinkPort.choose
    rw [hheld]
    obtain ⟨receiver, inbox, line, mask, held, prompts⟩ := q
    dsimp only at hl ⊢
    rw [hl, sendFirst_append _ hx]
    dsimp only
    cases sendFirst inbox with
    | some l => rfl
    | none =>
      cases prompts with
      | cons n rest => rfl
      | nil =>
        dsimp only [Option.map_none]
        split
        · split <;> rfl
        · rfl
  · rw [LinkPort.choose_busy q hl]
    exact LinkPort.choose_busy _ hl

/-- The frame of a request received whole by a port that is ready for it arrives, and lines that have chosen stay. -/
theorem exec_frameReceived {c : Instr} {p : Port} {k : RequestKind} {payload : List Byte} {s : State}
    (hc : c.request = some (p, k, payload)) (hw : c.wellFormed = true) (hs : s.Ready p) (hl : s.LinesBusy) :
    exec (.frameReceived p (Frame.make k.code payload).bytes) s = .next (s.arrived c) := by
  obtain ⟨hquiet, hrec, hhunt, hnext, hroom, hblk⟩ := hs
  have hmax := RequestKind.length_of_ok (Instr.request_lengthOk hw hc)
  have hreceived : s.receiveFrame p (Frame.make k.code payload).bytes = s.arrived c := by
    rw [State.receiveFrame_whole hrec hhunt (by simp only [Frame.make_payload, Config.frameLengthMax]; omega),
      State.arrived_eq hc]
    simp only [State.updatePort]
    congr 2
    exact LinkPort.offerFrame_room _ hroom
  have hbusy : (s.arrived c).LinesBusy := by
    rw [State.linesBusy_iff] at hl ⊢
    intro q
    rw [State.arrived_eq hc, State.port_updatePort]
    split_ifs with hq
    · rw [LinkPort.choose_append _ rfl, hl p]
    · exact hl q
  refine (exec_event (c := .frameReceived p _) rfl (.inl hquiet.1)).trans (congrArg _ ?_)
  rw [event_quiet _ hquiet, hreceived]
  exact hbusy

/-- Handling the frame of a request that has arrived is the request. -/
theorem request_arrived {c : Instr} {p : Port} {k : RequestKind} {payload : List Byte} {s : State}
    (serve : State → Served) (hc : c.request = some (p, k, payload)) (hw : c.wellFormed = true) (hs : s.Ready p) :
    request c serve (s.arrived c) = request c serve s := by
  rw [request_ready serve hc hw hs]
  obtain ⟨⟨hlow, hdue⟩, -, -, hnext, -, hblk⟩ := hs
  have hlow' : (s.arrived c).pins.resetLow = false := by rw [State.arrived_eq hc]; exact hlow
  have hdue' : (s.arrived c).expiriesDue = [] := by rw [State.arrived_eq hc]; exact hdue
  have hblk' : (s.arrived c).blocked p = false := by rw [State.arrived_eq hc]; exact hblk
  have hfirst : ((s.arrived c).port p).next? = some (Frame.make k.code payload) := by
    rw [State.arrived_eq hc, State.port_updatePort_self]
    have := firstUnhandled_append _ (arrivalSlot k payload) (LinkPort.next_none hnext) rfl
    simp only [LinkPort.next?, this, Option.map_some]
    rfl
  simp only [request, hc, hlow', State.settle_quiet hdue', hfirst, hblk', if_true, and_self, if_false,
    Bool.false_eq_true, State.handle, Frame.make_accepted (Instr.request_lengthOk hw hc), State.responded_eq hc]
  rfl

/-- Settles O6: the received frame stands where the request's own frame would, and the lines have nothing to choose. -/
theorem receivingThenHandlingIsTheRequest : Obligations.ReceivingThenHandlingIsTheRequest := by
  intro c p k payload s hc hw hs hl
  refine ⟨s.arrived c, exec_frameReceived hc hw hs hl, ?_⟩
  rw [exec_request hc, exec_request hc, request_arrived _ hc hw hs]

end Sys2Proof.Machine
end

section
/-! PROOFS. The link ports: frames received, byte by byte and whole, the frame checks, and the transmit line. -/
namespace Sys2Proof.Machine

/-- An event of a quiet part is its effect, after which the lines choose. -/
theorem exec_effect {c : Instr} {f : State → State} (hc : effect c = some f) {s : State} (hs : s.Quiet) :
    exec c s = .next (f s).kick :=
  (exec_event hc (.inl hs.1)).trans (congrArg _ (event_quiet f hs))

/-- What is made of one port decides what its update makes of the part. -/
theorem State.updatePort_congr {s : State} {p : Port} {f g : LinkPort → LinkPort} (h : f (s.port p) = g (s.port p)) :
    s.updatePort p f = s.updatePort p g :=
  congrArg (fun q => { s with ports := s.ports.set q p }) h

theorem State.next_updatePort_congr {s : State} {p : Port} {f g : LinkPort → LinkPort}
    (h : f (s.port p) = g (s.port p)) :
    (.next (s.updatePort p f).kick : Host.Outcome State Fault Refusal) = .next (s.updatePort p g).kick := by
  rw [State.updatePort_congr h]

theorem State.updatePort_self {s : State} {p : Port} {f : LinkPort → LinkPort} (h : f (s.port p) = s.port p) :
    s.updatePort p f = s :=
  (State.updatePort_congr (g := id) h).trans (congrArg (fun m => { s with ports := m }) (PortMap.set_get _ _))

/-! ## Whole frames (R168) -/

theorem State.receive_off {s : State} {p : Port} (h : s.canReceive p = false) (bytes : List Byte) :
    s.receive p bytes = s := by simp [State.receive, h]

theorem State.receive_on {s : State} {p : Port} (h : s.canReceive p = true) (bytes : List Byte) :
    s.receive p bytes = s.updatePort p fun q => bytes.foldl LinkPort.receiveByte q := by simp [State.receive, h]

theorem LinkPort.offerFrame_busy {q : LinkPort} (f : Frame) (h : 2 ≤ q.buffer.length) (hw : q.busyWaiting.length < 2) :
    q.offerFrame f = { q with inbox := q.inbox ++ [{ frame := f, buffered := false,
                                                      phase := .waiting ⟨f.kind, .busy, .empty⟩ }] } := by
  unfold LinkPort.offerFrame
  rw [if_neg (Nat.not_lt.mpr h), if_pos hw]

theorem LinkPort.offerFrame_discarded {q : LinkPort} (f : Frame) (h : 2 ≤ q.buffer.length)
    (hw : 2 ≤ q.busyWaiting.length) : q.offerFrame f = q := by
  unfold LinkPort.offerFrame
  rw [if_neg (Nat.not_lt.mpr h), if_neg (Nat.not_lt.mpr hw)]

/-- Settles O7: a whole frame is one offer to the buffer, whose three cases are those of the statement. -/
theorem wholeFrameIsOfferedToTheBuffer : Obligations.WholeFrameIsOfferedToTheBuffer := by
  intro p f s hf hs
  have hexec : exec (.frameReceived p f.bytes) s = .next (s.receiveFrame p f.bytes).kick :=
    exec_effect (c := .frameReceived p f.bytes) rfl hs
  rw [hexec]
  refine ⟨fun hr => ?_, fun hr hq => ?_⟩
  · rw [State.receiveFrame, State.receive_off hr]
  · rw [State.receiveFrame_whole hr hq hf]
    refine ⟨fun hroom => ?_, fun hfull hbusy => ?_, fun hfull hbusy => ?_⟩
    · exact State.next_updatePort_congr (LinkPort.offerFrame_room f hroom)
    · exact State.next_updatePort_congr (LinkPort.offerFrame_busy f hfull hbusy)
    · rw [State.updatePort_self (LinkPort.offerFrame_discarded f hfull hbusy)]

/-! ## Bytes (R167) -/

theorem LinkPort.receiver_eq {q : LinkPort} {r : Receiver} (h : q.receiver = r) : q = { q with receiver := r } := by
  rw [← h]

theorem LinkPort.receiveByte_start {q : LinkPort} (h : q.receiver = .hunting) :
    q.receiveByte 0xA5#8 = { q with receiver := .collecting [0xA5#8] } := by
  simp [LinkPort.receiveByte, h]

theorem LinkPort.receiveByte_hunting {q : LinkPort} (h : q.receiver = .hunting) {b : Byte} (hb : b ≠ 0xA5#8) :
    q.receiveByte b = q := by
  simp [LinkPort.receiveByte, h, hb]

/-- A start byte where the length is due is the length 165. -/
theorem LinkPort.receiveByte_length {q : LinkPort} {start : Byte} (h : q.receiver = .collecting [start]) :
    q.receiveByte 0xA5#8 = { q with receiver := .collecting [start, 0xA5#8] } := by
  simp [LinkPort.receiveByte, h, Config.frameLengthMax]

theorem LinkPort.receiveByte_invalid {q : LinkPort} {start : Byte} (h : q.receiver = .collecting [start]) {n : Byte}
    (hn : n.toNat = 0 ∨ 250 < n.toNat) : q.receiveByte n = { q with receiver := .hunting } := by
  have hne : n ≠ 0xA5#8 := by
    rintro rfl
    simp at hn
  simp only [LinkPort.receiveByte, h, Config.frameLengthMax, if_pos hn, if_neg hne]

theorem LinkPort.receiveByte_within {q : LinkPort} {start n : Byte} {got : List Byte}
    (h : q.receiver = .collecting (start :: n :: got)) (hlen : got.length + 1 < n.toNat + 2) (b : Byte) :
    q.receiveByte b = { q with receiver := .collecting (start :: n :: (got ++ [b])) } := by
  have hne : ¬ (start :: n :: (got ++ [b])).length = n.toNat + 4 := by
    simp only [List.length_cons, List.length_append, List.length_nil]
    omega
  simp only [LinkPort.receiveByte, h, if_neg hne]

/-- The bytes still to come of a frame of which some, or none, have been collected. -/
theorem LinkPort.collect_rest (q : LinkPort) {f : Frame} (hf : f.payload.length + 1 ≤ 250) {got rest : List Byte}
    (h : f.bytes = got ++ rest) (hr : rest ≠ []) :
    rest.foldl LinkPort.receiveByte { q with receiver := .collecting got } =
      LinkPort.offerFrame { q with receiver := .hunting } f := by
  have hwhole : f.bytes.foldl LinkPort.receiveByte { q with receiver := .hunting } =
      LinkPort.offerFrame { q with receiver := .hunting } f := by
    rw [LinkPort.receive_whole rfl (Frame.bytes_whole hf), frameOf_bytes]
  have hstart : LinkPort.receiveByte { q with receiver := .hunting } 0xA5#8 =
      { q with receiver := .collecting [0xA5#8] } := LinkPort.receiveByte_start rfl
  rw [Frame.bytes_eq] at h hwhole
  match got with
  | [] =>
    rw [List.nil_append] at h
    rw [← hwhole, ← h]
    simp only [List.foldl_cons, hstart]
    rfl
  | [a] =>
    obtain ⟨rfl, hrest⟩ := List.cons.inj h
    rw [← hwhole, List.foldl_cons, hstart, hrest]
    rfl
  | a :: n :: g =>
    obtain ⟨rfl, h'⟩ := List.cons.inj h
    have hn := (List.cons.inj h').1
    have hrest : f.kind :: (f.payload ++ u16Bytes f.check) = g ++ rest := (List.cons.inj h').2
    have hlen := congrArg List.length hrest
    have hnat : n.toNat = f.payload.length + 1 := by
      rw [← hn, BitVec.toNat_ofNat]
      omega
    simp only [List.length_cons, List.length_append, u16Bytes_length] at hlen
    rw [q.collect _ n g rest (by omega) hr, ← hrest, ← hn]
    exact congrArg _ (frameOf_bytes f)

/-- Settles O8: the bytes by the state of the receive side, and a frame completed as if it had come whole. -/
theorem receiveSideHuntsAndCollects : Obligations.ReceiveSideHuntsAndCollects := by
  intro p s hs
  have hstart : exec (.startByte p) s = .next (s.receive p [0xA5#8]).kick := exec_effect (c := .startByte p) rfl hs
  have hinvalid (b : Byte) : exec (.frameLengthInvalid p b) s = .next (s.receive p [b]).kick :=
    exec_effect (c := .frameLengthInvalid p b) rfl hs
  have hframe (bytes : List Byte) : exec (.frameReceived p bytes) s = .next (s.receiveFrame p bytes).kick :=
    exec_effect (c := .frameReceived p bytes) rfl hs
  refine ⟨fun hr hq => ⟨?_, fun b hb => ?_, fun b bytes hb => ?_⟩, fun start hr hq => ⟨?_, fun n hn => ?_⟩,
    fun start n got hr hq hlen => ?_, fun f got rest hf hgot hrest hr hq => ?_,
    exec_effect (c := .frameTimeout p) rfl hs⟩
  · rw [hstart, State.receive_on hr]
    exact State.next_updatePort_congr (LinkPort.receiveByte_start hq)
  · rw [hinvalid, State.receive_on hr, State.updatePort_self (LinkPort.receiveByte_hunting hq hb)]
  · have hremain (l : List Byte) : (s.port p).remaining l = l := by simp [LinkPort.remaining, hq]
    rw [hframe, hframe, State.receiveFrame, State.receiveFrame, hremain, hremain, State.receive_on hr,
      State.receive_on hr]
    refine State.next_updatePort_congr ?_
    rw [List.foldl_cons, LinkPort.receiveByte_hunting hq hb]
  · rw [hstart, State.receive_on hr]
    exact State.next_updatePort_congr (LinkPort.receiveByte_length hq)
  · rw [hinvalid, State.receive_on hr]
    exact State.next_updatePort_congr (LinkPort.receiveByte_invalid hq hn)
  · rw [hstart, State.receive_on hr]
    exact State.next_updatePort_congr (LinkPort.receiveByte_within hq hlen _)
  · have hwhole : exec (.frameReceived p f.bytes) (s.updatePort p fun q => { q with receiver := .hunting }) =
        .next (s.updatePort p fun q => LinkPort.offerFrame { q with receiver := .hunting } f).kick := by
      have hs' : (s.updatePort p fun q => { q with receiver := .hunting }).Quiet := hs
      have hr' : (s.updatePort p fun q => { q with receiver := .hunting }).canReceive p = true := hr
      refine (exec_effect (c := .frameReceived p f.bytes) rfl hs').trans ?_
      rw [State.receiveFrame_whole hr' (by rw [State.port_updatePort_self]) hf, State.updatePort_updatePort]
    have hcollect : rest.foldl LinkPort.receiveByte (s.port p) =
        LinkPort.offerFrame { s.port p with receiver := .hunting } f := by
      rw [← LinkPort.collect_rest _ hf hgot hrest, ← LinkPort.receiver_eq hq]
    dsimp only
    rw [hwhole]
    refine ⟨?_, fun hlast => ?_⟩
    · have hremain : (s.port p).remaining f.bytes = rest := by
        simp [LinkPort.remaining, hq, hgot]
      rw [hframe, State.receiveFrame, hremain, State.receive_on hr]
      exact State.next_updatePort_congr hcollect
    · rw [hstart, State.receive_on hr, ← hlast]
      exact State.next_updatePort_congr hcollect

/-! ## The frame checks (R168) -/

theorem RequestKind.ofByte_none {b : Byte} (h : ∀ k : RequestKind, k.code ≠ b) : RequestKind.ofByte? b = none := by
  refine List.find?_eq_none.mpr fun k _ => ?_
  simpa using h k

theorem Frame.reject_check {f : Frame} (h : crc f.checked ≠ f.check) :
    f.reject? = some { kind := 0, condition := .frame, data := .empty } := by
  rw [Frame.reject?, if_pos h]

theorem Frame.reject_kind {f : Frame} (h : crc f.checked = f.check) (hk : ∀ k : RequestKind, k.code ≠ f.kind) :
    f.reject? = some { kind := f.kind, condition := .unknown, data := .empty } := by
  rw [Frame.reject?, if_neg (not_not.mpr h), RequestKind.ofByte_none hk]

theorem Frame.reject_length {f : Frame} {k : RequestKind} (h : crc f.checked = f.check) (hk : k.code = f.kind)
    (hl : k.lengthOk f.payload.length = false) :
    f.reject? = some { kind := f.kind, condition := .length, data := .empty } := by
  rw [Frame.reject?, if_neg (not_not.mpr h), ← hk, RequestKind.ofByte_code]
  simp [hl]

theorem State.rejectFrame_some {s : State} {p : Port} {f : Frame} {r : Response} (hb : s.blocked p = false)
    (hn : (s.port p).next? = some f) (hr : f.reject? = some r) : s.rejectFrame p = s.updatePort p (·.respond r) := by
  simp [State.rejectFrame, hb, hn, hr]

/-- Settles O9: the response of each check in turn. -/
theorem failedFrameChecksAreAnswered : Obligations.FailedFrameChecksAreAnswered := by
  intro p f s hs hb hn
  have hexec : exec (.frameRejected p) s = .next (s.rejectFrame p).kick := exec_effect (c := .frameRejected p) rfl hs
  refine ⟨fun hc => ?_, fun hc hk => ?_, fun k hc hk hl => ?_⟩
  · rw [hexec, State.rejectFrame_some hb hn (Frame.reject_check hc)]
  · rw [hexec, State.rejectFrame_some hb hn (Frame.reject_kind hc hk)]
  · rw [hexec, State.rejectFrame_some hb hn (Frame.reject_length hc hk hl)]

/-! ## The transmit line (R149) -/

theorem sendFirst_none {l : List Slot} (h : l.all (fun y => !y.phase.isWaiting) = true) : sendFirst l = none := by
  induction l with
  | nil => rfl
  | cons x l ih =>
    simp only [List.all_cons, Bool.and_eq_true, Bool.not_eq_true'] at h
    obtain ⟨hx, hl⟩ := h
    cases hp : x.phase with
    | waiting r => simp [hp, SlotPhase.isWaiting] at hx
    | unhandled => simp [sendFirst, hp, ih hl]
    | sending r => simp [sendFirst, hp, ih hl]

theorem sendFirst_first {before after : List Slot} {x : Slot} {r : Response}
    (h : before.all (fun y => !y.phase.isWaiting) = true) (hx : x.phase = .waiting r) :
    sendFirst (before ++ x :: after) = some (before ++ { x with phase := .sending r } :: after) := by
  induction before with
  | nil => simp [sendFirst, hx]
  | cons y l ih =>
    simp only [List.all_cons, Bool.and_eq_true, Bool.not_eq_true'] at h
    obtain ⟨hy, hl⟩ := h
    rw [List.cons_append]
    cases hp : y.phase with
    | waiting r => simp [hp, SlotPhase.isWaiting] at hy
    | unhandled => simp [sendFirst, hp, ih hl]
    | sending r => simp [sendFirst, hp, ih hl]

section
variable {q : LinkPort} (hl : q.line = .idle)
include hl

theorem LinkPort.choose_response {l : List Slot} (h : sendFirst q.inbox = some l) :
    q.choose = { q with inbox := l, line := .response } := by
  simp only [LinkPort.choose, hl, h]

theorem LinkPort.choose_prompt (h : sendFirst q.inbox = none) {n : Prompt} {rest : List Prompt}
    (hp : q.prompts = n :: rest) : q.choose = { q with prompts := rest, line := .prompt n } := by
  simp only [LinkPort.choose, hl, h, hp]

theorem LinkPort.choose_held (h : sendFirst q.inbox = none) (hp : q.prompts = []) {k : NoticeKind} {n : HeldNotice}
    (hk : q.nextHeld = some k) (hn : q.held.get? k = some n) :
    q.choose = { q with held := q.held.drop k, line := .held n } := by
  simp only [LinkPort.choose, hl, h, hp, hk, hn]

theorem LinkPort.choose_nothing (h : sendFirst q.inbox = none) (hp : q.prompts = []) (hk : q.nextHeld = none) :
    q.choose = q := by
  simp only [LinkPort.choose, hl, h, hp, hk]

end

/-- A kind is not the next held one when its flag is clear or it is masked. -/
theorem LinkPort.nextHeld_skips {q : LinkPort} {k : NoticeKind} (h : q.held.get? k = none ∨ masks q.mask k = true) :
    ((q.held.get? k).isSome && !masks q.mask k) = false := by
  rcases h with h | h <;> simp [h]

theorem State.transmitEnd_port {s : State} {p : Port} (h : p = .lp5 → s.sendsResetResponse = false) :
    s.transmitEnd p = s.updatePort p LinkPort.endFrame := by
  refine if_neg fun ⟨hp, hr⟩ => ?_
  rw [h hp] at hr
  cases hr

/-- Settles O10: the end of the frame on the line, and the choice of an idle line in its order. -/
theorem transmitLineEndsItsFrameAndChooses : Obligations.TransmitLineEndsItsFrameAndChooses := by
  refine ⟨fun p s hs hreset => ?_, fun q => ⟨q.choose_busy, fun hl => ⟨?_, fun hnone => ?_⟩⟩⟩
  · have hexec : exec (.transmitFrameEnd p) s = .next (s.updatePort p LinkPort.endFrame).kick :=
      (exec_effect (c := .transmitFrameEnd p) rfl hs).trans (by rw [State.transmitEnd_port hreset])
    rw [hexec]
    refine ⟨fun hline => ?_, fun hline => ?_⟩
    · rw [State.updatePort_congr (g := fun q => { q with line := .idle, inbox := removeSending q.inbox })]
      simp [LinkPort.endFrame, hline]
    · rw [State.updatePort_congr (g := fun q => { q with line := .idle })]
      unfold LinkPort.endFrame
      split
      · exact absurd ‹_› hline
      · rfl
  · intro before after x r hq hbefore hx
    exact LinkPort.choose_response hl (hq ▸ sendFirst_first hbefore hx)
  · have hsend := sendFirst_none hnone
    refine ⟨fun n rest hp => LinkPort.choose_prompt hl hsend hp, fun hp => ⟨fun before after k n horder hbefore hk hm => ?_,
      fun hclosed => LinkPort.choose_nothing hl hsend hp (List.find?_eq_none.mpr fun k _ => ?_)⟩⟩
    · refine LinkPort.choose_held hl hsend hp ?_ hk
      rw [LinkPort.nextHeld, heldOrder, horder, List.find?_append, List.find?_eq_none.mpr, Option.none_or,
        List.find?_cons_of_pos]
      · simp [hk, hm]
      · intro j hj
        simpa using LinkPort.nextHeld_skips (hbefore j hj)
    · simpa using LinkPort.nextHeld_skips (hclosed k)

end Sys2Proof.Machine
end

section
/-! PROOFS. Chapter 11: breaks and resets. A command is a request, an event or one of the three that set the reset, and
RST_N low holds the first two. -/
namespace Sys2Proof.Machine

/-! ## A request that is taken -/

/-- A request that role and mode allow is answered with what its serving gives. -/
theorem exec_serving {c : Instr} {p : Port} {k : RequestKind} {payload : List Byte} {s t : State} {x : Condition}
    {d : Data} (hc : c.request = some (p, k, payload)) (hw : c.wellFormed = true) (hs : s.Ready p)
    (hr : k.inRole p.role = true) (hm : k.modeTest s.mode = none)
    (hv : serving c (s.arrived c) = { condition := x, data := d, state := t }) :
    exec c s = .next (t.responded c x d) :=
  exec_served (exec_request hc s) hc hw hs hr hm hv

/-- The same for a request of a wand port. -/
theorem exec_wand {c : Instr} {w : WandPort} {k : RequestKind} {payload : List Byte} {s t : State} {x : Condition}
    {d : Data} {serve : WandPort → State → Served} (hc : c.request = some (w.port, k, payload))
    (hw : c.wellFormed = true) (hserve : serving c = asWand w.port serve) (hs : s.Ready w.port)
    (hr : k.inRole .wand = true) (hm : k.modeTest s.mode = none)
    (hv : serve w (s.arrived c) = { condition := x, data := d, state := t }) :
    exec c s = .next (t.responded c x d) :=
  exec_serving hc hw hs (by rw [role_port, hr]) hm (by rw [hserve, asWand_port, hv])

/-! ## Breaks (R170, R137) -/

theorem State.takeBreak_again {s : State} {p : Port} (h : s.pins.breakLow.get p = true) : s.takeBreak p = s := by
  rw [State.takeBreak, if_pos h]

theorem State.takeBreak_first {s : State} {p : Port} (h : s.pins.breakLow.get p = false) :
    s.takeBreak p = (s.setBreak p true).resetPort p := by
  rw [State.takeBreak, if_neg (by simp [h])]

theorem State.not_resetting {s : State} {p : Port} (h : s.blocked p = false) : ¬(p = .lp5 ∧ s.resetScheduled = true) := by
  simpa [State.blocked] using h

theorem State.resetPort_wand {s : State} {p : Port} {w : WandPort} (hp : p.wand? = some w) :
    s.resetPort p = (s.updatePort p fun _ => .default).resetWand w := by
  obtain rfl := port_of_wand hp
  rw [State.resetPort, if_neg (by cases w <;> simp [WandPort.port]), hp]

theorem State.resetPort_other {s : State} {p : Port} (hp : p.wand? = none) (hb : s.blocked p = false) :
    s.resetPort p = s.updatePort p fun _ => .default := by
  have hnot : ¬(p = .lp5 ∧ (s.updatePort p fun _ => .default).resetScheduled = true) := State.not_resetting hb
  simp only [State.resetPort, hp, if_neg hnot]

/-- Settles O11: one break is one port reset, and the end of a break moves the level alone. -/
theorem breakResetsItsPort : Obligations.BreakResetsItsPort := by
  intro p s hs
  have hexec : exec (.portReset p) s = .next (s.takeBreak p).kick := exec_effect (c := .portReset p) rfl hs
  refine ⟨fun hlow => ?_, fun hhigh hb => ⟨fun w hp => ?_, fun hp => ?_⟩, exec_effect (c := .breakEnd p) rfl hs⟩
  · rw [hexec, State.takeBreak_again hlow]
  · rw [hexec, State.takeBreak_first hhigh, State.resetPort_wand hp]
    rfl
  · rw [hexec, State.takeBreak_first hhigh, State.resetPort_other (s := s.setBreak p true) hp hb]

/-! ## Power-on and the external reset (R172) -/

/-- Every command is a request, an event, or one of the three that set the reset. -/
theorem request_or_effect (c : Instr) (hc : c ∉ [Instr.powerOn, .externalReset, .resetRelease]) :
    (∃ p k payload, c.request = some (p, k, payload)) ∨ ∃ f, effect c = some f := by
  cases c
  case powerOn => exact absurd (by decide) hc
  case externalReset => exact absurd (by decide) hc
  case resetRelease => exact absurd (by decide) hc
  all_goals first | exact .inl ⟨_, _, _, rfl⟩ | exact .inr ⟨_, rfl⟩

theorem request_held {c : Instr} {serve : State → Served} {s : State} (h : s.pins.resetLow = true) :
    request c serve s = s := by
  unfold request
  split
  · rfl
  · rw [if_pos h]

theorem event_held {f : State → State} {s : State} (h : s.pins.resetLow = true) : event f s = s := if_pos h

/-- While RST_N is low a command that moves no level changes nothing. -/
theorem exec_held {c : Instr} {s : State} (h : s.pins.resetLow = true)
    (hc : c ∉ [Instr.powerOn, .externalReset, .resetRelease]) (hp : ∀ p, c ≠ .portReset p ∧ c ≠ .breakEnd p) :
    exec c s = .next s := by
  rcases request_or_effect c hc with ⟨p, k, payload, hreq⟩ | ⟨f, hf⟩
  · rw [exec_request hreq, request_held h]
  · rw [exec_event hf (.inr hp), event_held h]

theorem exec_portReset_held {s : State} (h : s.pins.resetLow = true) (p : Port) :
    exec (.portReset p) s = .next { s with pins := ⟨true, s.pins.breakLow.set true p⟩ } := by
  simp only [exec, execPortReset, h, if_true, State.setBreak]

theorem exec_breakEnd_held {s : State} (h : s.pins.resetLow = true) (p : Port) :
    exec (.breakEnd p) s = .next { s with pins := ⟨true, s.pins.breakLow.set false p⟩ } := by
  simp only [exec, execBreakEnd, h, if_true, State.setBreak]

/-- The part at its power-on values with a queue, its pins apart. -/
def State.AtPowerOn (s : State) (queue : List Instr) : Prop := s = { State.reset with pending := queue, pins := s.pins }

theorem State.AtPowerOn.withPins {s : State} {queue : List Instr} (h : s.AtPowerOn queue) (pins : Pins) :
    State.AtPowerOn { s with pins := pins } queue := by
  rw [h]
  rfl

/-- A part held at its power-on values stays at them. -/
theorem exec_atPowerOn {c : Instr} {s t : State} (hs : s.AtPowerOn s.pending) (hlow : s.pins.resetLow = true)
    (hc : c ≠ .resetRelease) (ht : exec c s = .next t) : t.AtPowerOn s.pending ∧ t.pins.resetLow = true := by
  by_cases hset : c = .powerOn ∨ c = .externalReset
  · rcases hset with rfl | rfl <;> cases ht
    · exact ⟨rfl, hlow⟩
    · exact ⟨rfl, rfl⟩
  by_cases hlevel : ∃ p, c = .portReset p ∨ c = .breakEnd p
  · obtain ⟨p, rfl | rfl⟩ := hlevel
    · rw [exec_portReset_held hlow] at ht
      cases ht
      exact ⟨hs.withPins _, rfl⟩
    · rw [exec_breakEnd_held hlow] at ht
      cases ht
      exact ⟨hs.withPins _, rfl⟩
  rw [exec_held hlow (by simp_all) (by simpa [not_or] using hlevel)] at ht
  cases ht
  exact ⟨hs, hlow⟩

/-- Settles O12: the three resets, the hold while RST_N is low, and the start of receiving. -/
theorem resetsGivePowerOnValues : Obligations.ResetsGivePowerOnValues := by
  intro s
  have henable (hs : s.Quiet) : exec .receiveEnable s = .next s.enableReceive.kick := exec_effect (c := .receiveEnable) rfl hs
  refine ⟨rfl, rfl, fun h => ?_, fun h => ?_, fun hs h => ?_, fun hs h => ?_, fun h => ⟨fun p => ?_, fun c hc hp => ?_⟩,
    fun c t hs h hc ht => exec_atPowerOn hs h hc ht⟩
  · simp only [exec, execResetRelease, h, if_true]
    rfl
  · simp only [exec, execResetRelease, h, Bool.false_eq_true, if_false]
  · rw [henable hs, State.enableReceive, if_neg (by simp [h])]
  · rw [henable hs, State.enableReceive, if_pos h]
  · exact ⟨exec_portReset_held h p, exec_breakEnd_held h p⟩
  · exact exec_held h hc hp

/-! ## DEVICE_RESET (R161) -/

/-- At the power-on values no line has anything to choose. -/
theorem State.powerOnValues_kick (s : State) (receiving : Bool) :
    (s.powerOnValues receiving).kick = s.powerOnValues receiving := rfl

theorem State.transmitEnd_reset {s : State} (h : s.sendsResetResponse = true) :
    s.transmitEnd .lp5 = s.powerOnValues s.receiving := if_pos ⟨rfl, h⟩

theorem State.resetPort_reset {s : State} (h : s.resetScheduled = true) :
    s.resetPort .lp5 = s.powerOnValues s.receiving := if_pos ⟨rfl, h⟩

theorem State.blocked_of {s : State} (h : s.resetScheduled = true) : s.blocked .lp5 = true := h

/-- A blocked port takes a request's frame and handles nothing. -/
theorem exec_blocked {c : Instr} {p : Port} {k : RequestKind} {payload : List Byte} {s : State}
    (hc : c.request = some (p, k, payload)) (hs : s.Quiet) (hb : s.blocked p = true) :
    exec c s = .next (if (s.port p).next? = some (Frame.make k.code payload) then s
      else s.receiveFrame p (Frame.make k.code payload).bytes).kick := by
  have hblocked (t : State) (ht : t.resetScheduled = s.resetScheduled) : t.blocked p = true := by
    rw [← hb, State.blocked, State.blocked, ht]
  rw [exec_request hc, request]
  simp only [hc, hs.1, Bool.false_eq_true, if_false, State.settle_quiet hs.2]
  rw [if_neg (c := _ ∧ _)]
  rintro ⟨-, hfree⟩
  rw [hblocked] at hfree
  · cases hfree
  · split_ifs
    · rfl
    · exact State.receiveFrame_resetScheduled ..

/-- Settles O13: the request leaves its mark, the end of its response or a port reset takes the effect, and until then
LP5 is blocked. -/
theorem deviceResetTakesEffectAfterItsResponse : Obligations.DeviceResetTakesEffectAfterItsResponse := by
  refine ⟨fun s hs => exec_serving (c := .deviceReset .lp5) rfl rfl hs rfl rfl rfl, fun s hs => ?_⟩
  have heffect : exec .deviceResetEffect s = .next s.takeDeviceReset.kick := exec_effect (c := .deviceResetEffect) rfl hs
  have hend : exec (.transmitFrameEnd .lp5) s = .next (s.transmitEnd .lp5).kick :=
    exec_effect (c := .transmitFrameEnd .lp5) rfl hs
  have hreset : exec (.portReset .lp5) s = .next (s.takeBreak .lp5).kick := exec_effect (c := .portReset .lp5) rfl hs
  have hreject : exec (.frameRejected .lp5) s = .next (s.rejectFrame .lp5).kick :=
    exec_effect (c := .frameRejected .lp5) rfl hs
  refine ⟨fun h => ⟨?_, ?_⟩, fun h => ?_, fun h hhigh => ?_, fun h => ⟨?_, fun c k payload hc => ⟨fun hn => ?_, fun hn => ?_⟩⟩⟩
  · rw [heffect, State.takeDeviceReset, if_pos h]
    rfl
  · rw [hend, State.transmitEnd_reset h]
    rfl
  · rw [heffect, State.takeDeviceReset, if_neg (by simp [h])]
  · rw [hreset, State.takeBreak_first (p := .lp5) hhigh, State.resetPort_reset (s := s.setBreak .lp5 true) h, State.powerOnValues_kick]
    simp only [State.powerOnValues, State.setBreak, hs.1]
  · rw [hreject, State.rejectFrame, if_pos (State.blocked_of h)]
  · rw [exec_blocked hc hs (State.blocked_of h), if_pos hn]
  · rw [exec_blocked hc hs (State.blocked_of h), if_neg hn]
    exact (exec_effect (c := .frameReceived .lp5 _) rfl hs).symm

end Sys2Proof.Machine
end

section
/-! PROOFS. Chapter 10: Section Control. The sums of TOTALS are sums over the Run Table, and the account of the Item
Register makes them add up. -/
namespace Sys2Proof.Machine

/-! ## Configuration and the count (R153 to R156) -/

/-- Settles O14. -/
theorem configureWritesClampedParameters : Obligations.ConfigureWritesClampedParameters := fun _ _ _ _ _ s hs hm =>
  exec_serving rfl rfl hs rfl (by rw [hm]; rfl) rfl

/-- Settles O15: each of the three answers with what the part holds on its arrival and enters its mode. -/
theorem startPauseContinueChangeTheMode : Obligations.StartPauseContinueChangeTheMode := by
  refine fun s hs => ⟨fun hm => ?_, fun hm => ?_, fun hm => ?_⟩
  · refine exec_serving (c := .start .lp5) rfl rfl hs rfl (by rw [hm]; rfl) ?_
    simp only [serving, serveStart, State.arrived_clock, State.arrived_config]
    rfl
  · refine exec_serving (c := .pause .lp5) rfl rfl hs rfl (by rw [hm]; rfl) ?_
    simp only [serving, servePause, State.arrived_clock]
    rfl
  · refine exec_serving (c := .continueCount .lp5) rfl rfl hs rfl (by rw [hm]; rfl) ?_
    simp only [serving, serveContinue, State.arrived_clock]
    rfl

theorem State.advance_counting {s : State} (h : s.mode = .counting) :
    s.advance = State.tickTimers { s with clock := s.clock + 1 } := by
  simp only [State.advance, h]

theorem State.advance_paused {s : State} (h : s.mode = .paused) : s.advance = { s with clock := s.clock + 1 } := by
  simp only [State.advance, h]

theorem State.advance_other {s : State} (hc : s.mode ≠ .counting) (hp : s.mode ≠ .paused) : s.advance = s := by
  unfold State.advance
  split <;> first | rfl | exact absurd ‹_› hc | exact absurd ‹_› hp

/-- The stage of a run that is not CLAIMED takes no tick. -/
theorem tickStage_unclaimed {g : Stage} (h : ∀ c, g ≠ .claimed c) : tickStage g = g := by
  cases g with
  | claimed c => exact absurd rfl (h c)
  | _ => rfl

/-- Settles O16: the advance in COUNTING is one change of every CLAIMED run's timer. -/
theorem clockAdvanceCountsAndRunsTimers : Obligations.ClockAdvanceCountsAndRunsTimers := by
  intro s hs
  have hexec : exec .sectionClockAdvance s = .next s.advance.kick := exec_effect (c := .sectionClockAdvance) rfl hs
  refine ⟨fun hm => ⟨s.advance, hexec, ?_⟩, fun hm => ?_, fun hc hp => ?_⟩
  · rw [State.advance_counting hm]
    refine ⟨rfl, by simp [State.tickTimers], fun r x hr => ?_⟩
    have hrun : (State.tickTimers { s with clock := s.clock + 1 }).run r = some x.ticked := by
      rw [State.run_tickTimers]
      exact congrArg (Option.map LoadedRun.ticked) hr
    refine ⟨fun c hx => ?_, fun hx => ?_⟩
    · rw [hrun, LoadedRun.ticked, hx]
      rfl
    · rw [hrun, LoadedRun.ticked, tickStage_unclaimed hx]
  · rw [hexec, State.advance_paused hm]
  · rw [hexec, State.advance_other hc hp]

/-! ## Closing and wiping (R157 to R159) -/

theorem Stage.inFlight_iff {g : Stage} : g.inFlight = true ↔ g.state = .claimed ∨ g.state = .held := by
  cases g <;> simp [Stage.inFlight, Stage.claim?, Stage.state]

/-- Settles O18: BUSY, STATE and the close are the three branches of the serving. -/
theorem closeSectionBeginsTheClose : Obligations.CloseSectionBeginsTheClose := by
  intro s hs hm c
  have hexec {x : Condition} {d : Data} {t : State}
      (hv : serveCloseSection (s.arrived c) = { condition := x, data := d, state := t }) :
      exec c s = .next (t.responded c x d) := exec_serving rfl rfl hs rfl (modeAmong_opened hm _ _) hv
  refine ⟨fun hbusy => hexec (if_pos ?_), fun hfree => ⟨fun hloading => hexec ?_, fun hloaded => hexec ?_⟩⟩
  · simpa only [State.arrived_runs, List.any_eq_true, Stage.inFlight_iff] using hbusy
  · have hnot : ¬((s.arrived c).runs.any fun x => x.2.stage.inFlight) = true := by
      simpa only [State.arrived_runs, List.any_eq_true, Stage.inFlight_iff, not_exists, not_and, not_or] using hfree
    refine (if_neg hnot).trans (if_pos ?_)
    simpa only [State.arrived_runs, List.any_eq_true, beq_iff_eq] using hloading
  · have hnot : ¬((s.arrived c).runs.any fun x => x.2.stage.inFlight) = true := by
      simpa only [State.arrived_runs, List.any_eq_true, Stage.inFlight_iff, not_exists, not_and, not_or] using hfree
    refine (if_neg hnot).trans ((if_neg ?_).trans ?_)
    · simpa only [State.arrived_runs, List.any_eq_true, beq_iff_eq, not_exists, not_and] using hloaded
    · simp only [State.expectedEntries, State.runsToClose, State.arrived_pool, State.arrived_runs]
      rfl

theorem State.completeClose_closing {s : State} (h : s.mode = .closing) :
    s.completeClose = (State.enterMode { s with
      pool := s.pool.map fun x => (x.1, x.2.close)
      runs := s.runs.map fun x => (x.1, x.2.close)
      operation := none } .closed).raiseOpDone .close := if_pos h

theorem State.completeWipe_wiping {s : State} (h : s.mode = .wiping) :
    s.completeWipe = (State.enterMode { s with operation := none } .halted).raiseOpDone .wipe := if_pos h

/-- Settles O19: the completion of the close, with OP_DONE and without. -/
theorem closeCompletionClosesTheSection : Obligations.CloseCompletionClosesTheSection := by
  intro s hs
  have hexec : exec .closeCompletion s = .next s.completeClose.kick := exec_effect (c := .closeCompletion) rfl hs
  refine ⟨fun hm => ⟨fun h => ?_, fun h => ?_⟩, fun hm => ?_⟩
  · rw [hexec, State.completeClose_closing hm]
    exact congrArg (fun t => Host.Outcome.next (State.kick t)) (State.raiseOpDone_raised .close h)
  · rw [hexec, State.completeClose_closing hm]
    exact congrArg (fun t => Host.Outcome.next (State.kick t)) (State.raiseOpDone_withheld .close h)
  · rw [hexec, State.completeClose, if_neg hm]

/-- Settles O20: the wipe and its completion. -/
theorem wipeEmptiesThePart : Obligations.WipeEmptiesThePart := by
  refine ⟨fun s hs hm => ?_, fun s hs => ?_⟩
  · refine exec_serving (c := .wipe .lp5) rfl rfl hs rfl (by rcases hm with h | h <;> rw [h] <;> rfl) ?_
    simp only [serving, serveWipe, State.arrived_wands, State.enterMode_eq]
    rfl
  · have hexec : exec .wipeCompletion s = .next s.completeWipe.kick := exec_effect (c := .wipeCompletion) rfl hs
    refine ⟨fun hm => ⟨fun h => ?_, fun h => ?_⟩, fun hm => ?_⟩
    · rw [hexec, State.completeWipe_wiping hm]
      exact congrArg (fun t => Host.Outcome.next (State.kick t)) (State.raiseOpDone_raised .wipe h)
    · rw [hexec, State.completeWipe_wiping hm]
      exact congrArg (fun t => Host.Outcome.next (State.kick t)) (State.raiseOpDone_withheld .wipe h)
    · rw [hexec, State.completeWipe, if_neg hm]

/-! ## STATUS and TOTALS (R162, R163) -/

theorem foldl_add_eq_sum {α : Type} (f : α → Nat) (l : List α) (n : Nat) :
    l.foldl (fun n x => n + f x) n = n + (l.map f).sum := by
  induction l generalizing n with
  | nil => rfl
  | cons x l ih => rw [List.foldl_cons, ih, List.map_cons, List.sum_cons, Nat.add_assoc]

/-- Tallies added over a list are the sums of their six parts. -/
theorem foldl_tallies_eq_sums {α : Type} (f : α → Tallies) (l : List α) (t : Tallies) :
    l.foldl (fun t x => t.add (f x)) t =
      t.add ⟨(l.map fun x => (f x).expected).sum, (l.map fun x => (f x).shelved).sum,
        (l.map fun x => (f x).displaced).sum, (l.map fun x => (f x).onLoan).sum, (l.map fun x => (f x).returned).sum,
        (l.map fun x => (f x).missing).sum⟩ := by
  induction l generalizing t with
  | nil => rfl
  | cons x l ih =>
    rw [List.foldl_cons, ih]
    simp only [List.map_cons, List.sum_cons, Tallies.add, Nat.add_assoc]

theorem Tallies.zero_add (t : Tallies) : Tallies.zero.add t = t := by
  simp [Tallies.add, Tallies.zero]

theorem State.tallySums_eq (s : State) :
    s.tallySums = ⟨(s.runs.map fun x => x.2.shelf.tallies.expected).sum, (s.runs.map fun x => x.2.shelf.tallies.shelved).sum,
      (s.runs.map fun x => x.2.shelf.tallies.displaced).sum, (s.runs.map fun x => x.2.shelf.tallies.onLoan).sum,
      (s.runs.map fun x => x.2.shelf.tallies.returned).sum, (s.runs.map fun x => x.2.shelf.tallies.missing).sum⟩ :=
  (foldl_tallies_eq_sums _ _ _).trans (Tallies.zero_add _)

theorem State.itemSum_eq (s : State) : s.itemSum = (s.runs.map fun x => x.2.shelf.entries.length).sum :=
  (foldl_add_eq_sum _ _ _).trans (Nat.zero_add _)

/-- Settles O21: both report the part as it stands on their arrival. -/
theorem statusAndTotalsReportThePart : Obligations.StatusAndTotalsReportThePart := by
  refine fun s hs => ⟨exec_serving (c := .status .lp5) rfl rfl hs rfl rfl ?_, fun hm =>
    exec_serving (c := .totals .lp5) rfl rfl hs rfl (modeAmong_settled hm) ?_⟩
  · simp only [serving, serveStatus, State.arrived_mode, State.arrived_operation, State.arrived_clock,
      State.arrived_passSerial, State.arrived_pool, State.arrived_strays, State.arrived_discrepancies,
      State.arrived_overflow]
    rfl
  · simp only [serving, serveTotals, State.tallySums_eq, State.itemSum_eq, RunState.all, State.runsIn, List.map_cons,
      List.map_nil, State.arrived_runs]
    rfl

/-! ## The sums add up (R163) -/

/-- Counted by a value that takes one of some distinct keys, the members of a list are all counted once. -/
theorem sum_countP_eq_length {α κ : Type} [DecidableEq κ] (f : α → κ) {keys : List κ} (hk : keys.Nodup) {l : List α}
    (hl : ∀ x ∈ l, f x ∈ keys) : (keys.map fun k => l.countP fun x => decide (f x = k)).sum = l.length := by
  have hcount (k : κ) : l.countP (fun x => decide (f x = k)) = Multiset.count k (l.map f : Multiset κ) := by
    rw [Multiset.coe_count, List.count, List.countP_map]
    rfl
  simp only [hcount]
  rw [← List.sum_toFinset _ hk, Multiset.sum_count_eq_card, Multiset.coe_card, List.length_map]
  intro a ha
  obtain ⟨x, hx, rfl⟩ := List.mem_map.mp (Multiset.mem_coe.mp ha)
  exact List.mem_toFinset.mpr (hl x hx)

/-- The entries of a run, counted over the pool. -/
def State.homeCount (s : State) (r : RunNo) : Nat := s.pool.countP fun x => decide (x.2.homeRun = r)

theorem Tallies.sum_eq (t : Tallies) :
    t.sum = ([Status.expected, .shelved, .displaced, .onLoan, .returned, .missing].map t.get).sum := by
  simp [Tallies.sum, Tallies.get, Nat.add_assoc]

theorem Tallies.sum_add (t u : Tallies) : (t.add u).sum = t.sum + u.sum := by
  simp only [Tallies.sum, Tallies.add]
  omega

theorem State.tallySums_sum (s : State) : s.tallySums.sum = (s.runs.map fun x => x.2.shelf.tallies.sum).sum := by
  have hfold (l : List (RunNo × LoadedRun)) (t : Tallies) :
      (l.foldl (fun t x => t.add x.2.shelf.tallies) t).sum = t.sum + (l.map fun x => x.2.shelf.tallies.sum).sum := by
    induction l generalizing t with
    | nil => rfl
    | cons x l ih => rw [List.foldl_cons, ih, Tallies.sum_add, List.map_cons, List.sum_cons, Nat.add_assoc]
  exact (hfold s.runs .zero).trans (Nat.zero_add _)

section
variable {s : State} {r : RunNo} {x : LoadedRun}

/-- A run's tallies count its entries. -/
theorem State.RunAccount.tallies_sum (h : s.RunAccount r x) : x.shelf.tallies.sum = s.homeCount r := by
  have hstatus (st : Status) : x.shelf.tallies.get st =
      (s.pool.filter fun y => decide (y.2.homeRun = r)).countP fun y => decide (y.2.status = st) := by
    rw [h.tallies, State.statusCount, List.countP_filter]
    refine congrArg (fun p => s.pool.countP p) (funext fun y => ?_)
    rw [Bool.and_comm, ← Bool.decide_and]
  rw [Tallies.sum_eq, State.homeCount, List.countP_eq_length_filter, List.map_congr_left fun st _ => hstatus st]
  refine sum_countP_eq_length (fun y : Nat × Entry => y.2.status)
    (keys := [.expected, .shelved, .displaced, .onLoan, .returned, .missing]) (by decide) fun y _ => ?_
  cases y.2.status <;> decide

/-- A run's list names its entries, each once. -/
theorem State.RunAccount.length_eq (h : s.RunAccount r x) (hp : tableSorted s.pool = true) :
    x.shelf.entries.length = s.homeCount r := by
  rw [State.homeCount, List.countP_eq_length_filter, ← List.length_map (f := Prod.fst)]
  refine List.Perm.length_eq ((List.perm_ext_iff_of_nodup h.once ?_).mpr fun i => ?_)
  · exact (tableSorted_nodup natOrder hp).sublist (List.filter_sublist.map _)
  · simp only [h.own, State.entry, tableGet_eq_some_iff natOrder hp, List.mem_map, List.mem_filter, decide_eq_true_iff]
    exact ⟨fun ⟨e, he, hr⟩ => ⟨(i, e), ⟨he, hr⟩, rfl⟩, fun ⟨y, ⟨hy, hr⟩, hi⟩ => ⟨y.2, hi ▸ hy, hr⟩⟩

end

section
variable {s : State} (h : s.Accounted)
include h

/-- What each loaded run counts over the pool adds to the pool. -/
theorem State.Accounted.sum_eq (f : LoadedRun → Nat) (hf : ∀ r x, s.run r = some x → f x = s.homeCount r) :
    (s.runs.map fun x => f x.2).sum = s.pool.length := by
  obtain ⟨-, hruns⟩ := h.canonical
  have hmap : (s.runs.map fun x => f x.2) = (s.runs.map Prod.fst).map s.homeCount := by
    rw [List.map_map]
    exact List.map_congr_left fun x hx => hf x.1 x.2 (tableGet_of_mem runOrder hruns hx)
  rw [hmap]
  refine sum_countP_eq_length (fun y : Nat × Entry => y.2.homeRun) (tableSorted_nodup runOrder hruns) fun y hy => ?_
  obtain ⟨x, hx⟩ := Option.isSome_iff_exists.mp (h.homes y hy)
  exact List.mem_map.mpr ⟨_, tableGet_mem hx, rfl⟩

end

/-- The nine counts of run states, the UNLOADED runs among them. -/
theorem State.runsIn_sum {s : State} (h : tableSorted s.runs = true) : (RunState.all.map s.runsIn).sum = 280 := by
  have hle : s.runs.length ≤ 280 := by
    have := (tableSorted_nodup runOrder h).length_le_card
    simpa using this
  have hloaded : (RunState.all.tail.map fun st => s.runs.countP fun x => decide (x.2.stage.state = st)).sum =
      s.runs.length := by
    refine sum_countP_eq_length (fun x : RunNo × LoadedRun => x.2.stage.state) (by decide) fun x _ => ?_
    cases x.2.stage <;> simp [Stage.state, RunState.all]
  have hsplit : (RunState.all.map s.runsIn).sum = (280 - s.runs.length) +
      (RunState.all.tail.map fun st => s.runs.countP fun x => decide (x.2.stage.state = st)).sum := rfl
  omega

/-- Settles O22: the tallies and the lists of the loaded runs count the pool's entries by home run. -/
theorem totalsAddUp : Obligations.TotalsAddUp := fun s h =>
  ⟨s.tallySums_sum.trans (h.sum_eq (·.shelf.tallies.sum) fun r x hx => (h.runs r x hx).tallies_sum),
    s.itemSum_eq.trans (h.sum_eq (·.shelf.entries.length) fun r x hx => (h.runs r x hx).length_eq h.canonical.1),
    State.runsIn_sum h.canonical.2⟩

end Sys2Proof.Machine
end

section
/-! PROOFS. Sections 3.4 and 2.5 to 3.7: the claims that have run out, and the requests of the supervisor that load, move
and unload runs. -/
namespace Sys2Proof.Machine

/-! ## Released runs (R55, R58) -/

theorem stageAfterPass_claim (passCount passLimit : Nat) : (stageAfterPass passCount passLimit).claim? = none := by
  unfold stageAfterPass
  split <;> rfl

section
variable (s : State) (r : RunNo) (y : Reason)

theorem State.run_abandon_ne {q : RunNo} (h : q ≠ r) : (s.abandon r y).run q = s.run q := by
  cases hc : s.claim? r with
  | none => rw [State.abandon_free hc]
  | some k =>
    obtain ⟨x, hr, hx⟩ := State.claim_some.mp hc
    rw [State.run_abandon hr (Stage.claim_some.mpr hx), if_neg h]

theorem State.claim_abandon : (s.abandon r y).claim? r = none := by
  cases hc : s.claim? r with
  | none => rw [State.abandon_free hc, hc]
  | some k =>
    obtain ⟨x, hr, hx⟩ := State.claim_some.mp hc
    rw [State.claim?, State.run_abandon hr (Stage.claim_some.mpr hx), if_pos rfl]
    exact stageAfterPass_claim _ _

/-- RELEASED changes no run. -/
theorem State.run_releaseClaim (q : RunNo) : (s.releaseClaim r y).run q = (s.abandon r y).run q := by
  unfold State.releaseClaim
  split
  · rfl
  · next hc => rw [State.abandon_free hc]

theorem State.run_releaseClaim_ne {q : RunNo} (h : q ≠ r) : (s.releaseClaim r y).run q = s.run q :=
  (s.run_releaseClaim r y q).trans (s.run_abandon_ne r y h)

theorem State.claim_releaseClaim : (s.releaseClaim r y).claim? r = none :=
  (congrArg (·.bind fun x => x.stage.claim?) (s.run_releaseClaim r y r)).trans (s.claim_abandon r y)

end

/-! ## Expiries (R55) -/

/-- The part once the claims on some runs have expired, in their order. -/
def State.expired (s : State) (due : List RunNo) : State := due.foldl (fun t r => t.releaseClaim r .expired) s

theorem State.run_expired_ne {due : List RunNo} {r : RunNo} (h : r ∉ due) (s : State) :
    (s.expired due).run r = s.run r := by
  induction due generalizing s with
  | nil => rfl
  | cons q due ih =>
    rw [List.mem_cons, not_or] at h
    obtain ⟨hq, hdue⟩ := h
    exact (ih hdue _).trans (s.run_releaseClaim_ne q _ hq)

theorem State.claim_expired {due : List RunNo} {r : RunNo} (h : r ∈ due) (s : State) :
    (s.expired due).claim? r = none := by
  induction due generalizing s with
  | nil => cases h
  | cons q due ih =>
    by_cases hdue : r ∈ due
    · exact ih hdue _
    · obtain rfl := (List.mem_cons.mp h).resolve_right hdue
      exact (congrArg (·.bind fun x => x.stage.claim?) (State.run_expired_ne hdue _)).trans (s.claim_releaseClaim r _)

theorem State.settle_eq {s : State} (h : s.expiriesDue ≠ []) : s.settle = (s.expired s.expiriesDue).kick := by
  unfold State.settle
  split
  · next hnone => exact absurd hnone h
  · rfl

theorem State.mem_expiriesDue {s : State} (hs : tableSorted s.runs = true) {r : RunNo} :
    r ∈ s.expiriesDue ↔ s.mode = .counting ∧ ∃ x c, s.run r = some x ∧ x.stage = .claimed c ∧ c.timer = 0 := by
  have htest (x : LoadedRun) : (match x.stage with | .claimed c => c.timer == 0 | _ => false) = true ↔
      ∃ c, x.stage = .claimed c ∧ c.timer = 0 := by
    cases x.stage <;> simp
  unfold State.expiriesDue
  split_ifs with hm
  · simp only [List.mem_map, List.mem_filter, hm, true_and, State.run, tableGet_eq_some_iff runOrder hs]
    constructor
    · rintro ⟨⟨q, x⟩, ⟨hx, hg⟩, rfl⟩
      obtain ⟨c, hc, ht⟩ := (htest x).mp hg
      exact ⟨x, c, hx, hc, ht⟩
    · rintro ⟨x, c, hx, hc, ht⟩
      exact ⟨(r, x), ⟨hx, (htest x).mpr ⟨c, hc, ht⟩⟩, rfl⟩
  · simp [hm]

theorem State.expiriesDue_pairwise {s : State} (hs : tableSorted s.runs = true) : s.expiriesDue.Pairwise (· < ·) := by
  unfold State.expiriesDue
  split_ifs
  · exact ((tableSorted_iff runOrder).mp hs).sublist (List.filter_sublist.map _)
  · exact .nil

/-- Once the due claims have expired, none is left to expire. -/
theorem State.settle_expiriesDue {s : State} (hs : s.Canonical) : s.settle.expiriesDue = [] := by
  by_cases h : s.expiriesDue = []
  · rw [State.settle_quiet h, h]
  have hsettled : tableSorted s.settle.runs = true := (canonical_kept.settle s hs).2
  refine List.eq_nil_iff_forall_not_mem.mpr fun r hr => ?_
  obtain ⟨hm, x, c, hx, hg, ht⟩ := (State.mem_expiriesDue hsettled).mp hr
  have hx' : (s.expired s.expiriesDue).run r = some x := by
    rw [State.settle_eq h] at hx
    exact hx
  by_cases hdue : r ∈ s.expiriesDue
  · have hfree := State.claim_expired hdue s
    rw [State.claim?, hx', Option.bind_some, hg] at hfree
    cases hfree
  · rw [State.run_expired_ne hdue] at hx'
    exact hdue ((State.mem_expiriesDue hs.2).mpr ⟨by simpa using hm, x, c, hx', hg, ht⟩)

theorem State.settle_settle {s : State} (hs : s.Canonical) : s.settle.settle = s.settle :=
  State.settle_quiet (State.settle_expiriesDue hs)

/-- A command that finds expiries due acts as on the part that has taken them. -/
theorem exec_settle {c : Instr} {s : State} (hc : c ≠ .resetRelease) (hlow : s.pins.resetLow = false)
    (hs : s.Canonical) : exec c s = exec c s.settle := by
  by_cases hset : c = .powerOn ∨ c = .externalReset
  · rcases hset with rfl | rfl <;>
      simp only [exec, execPowerOn, execExternalReset, State.powerOnValues, State.settle_pending, State.settle_pins]
  have hlow' : s.settle.pins.resetLow = false := by rw [State.settle_pins, hlow]
  rcases request_or_effect c (by simp_all) with ⟨p, k, payload, hreq⟩ | ⟨f, hf⟩
  · rw [exec_request hreq, exec_request hreq]
    unfold request
    simp only [hreq, hlow, hlow', State.settle_settle hs]
    rfl
  · rw [exec_event hf (.inl hlow), exec_event hf (.inl hlow'), event, event, State.settle_settle hs, hlow, hlow']
    rfl

/-- Settles O17: CLAIM_EXPIRY is the settling that every other command begins with. -/
theorem claimsThatRanOutExpire : Obligations.ClaimsThatRanOutExpire := by
  intro s hlow hs hdue
  have hexec : exec .claimExpiry s = .next s.settle := by
    rw [exec_event (c := .claimExpiry) rfl (.inl hlow), event, if_neg (by simp [hlow]), State.settle_eq hdue]
    exact congrArg _ (State.kick_kick _)
  refine ⟨fun r => State.mem_expiriesDue hs.2, State.expiriesDue_pairwise hs.2, ?_, fun t ht => ?_, fun c t hc ht => ?_⟩
  · rw [hexec, State.settle_eq hdue]
    rfl
  · rw [hexec] at ht
    cases ht
    exact State.settle_expiriesDue hs
  · rw [hexec] at ht
    cases ht
    exact exec_settle hc hlow hs

/-! ## LOAD_RUN (R45, R46) -/

/-- Settles O23: the branches of the serving in the order of its tests. -/
theorem loadRunOpensTheRun : Obligations.LoadRunOpensTheRun := by
  intro run lower upper length s hs hm c
  have hexec {x : Condition} {d : Data} {t : State}
      (hv : serveLoadRun run lower upper length (s.arrived c) = { condition := x, data := d, state := t }) :
      exec c s = .next (t.responded c x d) := exec_serving rfl rfl hs rfl (modeAmong_loadable hm _) hv
  refine ⟨fun h => hexec ?_, fun r hr => ⟨fun hkey => hexec ?_, fun lo hi hlo hhi => ⟨fun hgt => hexec ?_,
    fun hle => ⟨fun hloaded => hexec ?_, fun hfree => hexec ?_⟩⟩⟩⟩
  · simp only [serveLoadRun, runOperand_none h, refuse]
  · simp only [serveLoadRun, runOperand_some hr]
    split
    · simp_all
    · rfl
  · simp only [serveLoadRun, runOperand_some hr, hlo, hhi, if_pos hgt, refuse]
  · obtain ⟨x, hx⟩ := Option.ne_none_iff_exists'.mp (mt State.runState_unloaded.mpr hloaded)
    simp only [serveLoadRun, runOperand_some hr, hlo, hhi, if_neg hle, State.arrived_run, hx, refuse]
  · simp only [serveLoadRun, runOperand_some hr, hlo, hhi, if_neg hle, State.arrived_run,
      State.runState_unloaded.mp hfree]
    rfl

/-! ## LOAD_ITEM (R24 to R28) -/

theorem State.arrived_loadCheck (s : State) (c : Instr) (x : LoadedRun) (tag : Tag) (k : ShelfKey) :
    (s.arrived c).loadCheck x tag k = s.loadCheck x tag k := by
  simp only [State.loadCheck, State.lastLoadedKey, State.arrived_lookup, State.arrived_pool, State.arrived_entry]
  rfl

section
variable {s : State} {x : LoadedRun} {tag : Tag} {k : ShelfKey}

theorem State.lastLoadedKey_some {last : Nat} {e : Entry} (hl : x.shelf.entries.getLast? = some last)
    (he : s.entry last = some e) : s.lastLoadedKey x = some e.key := by
  simp [State.lastLoadedKey, hl, he]

/-- The last loaded key of a run is the key of an entry at the end of its list. -/
theorem State.lastLoadedKey_eq_some {key : ShelfKey} (h : s.lastLoadedKey x = some key) :
    ∃ last e, x.shelf.entries.getLast? = some last ∧ s.entry last = some e ∧ e.key = key := by
  simp only [State.lastLoadedKey, Option.map_eq_some_iff, Option.bind_eq_some_iff] at h
  obtain ⟨e, ⟨last, hl, he⟩, hk⟩ := h
  exact ⟨last, e, hl, he, hk⟩

theorem State.loadCheck_limits (h : betweenLimits k x.lower x.upper ≠ .eq) : s.loadCheck x tag k = some .limits := by
  rw [State.loadCheck, if_pos h]

variable (hlimits : betweenLimits k x.lower x.upper = .eq)
include hlimits

theorem State.loadCheck_order {last : Nat} {e : Entry} (hl : x.shelf.entries.getLast? = some last)
    (he : s.entry last = some e) (h : compareKeys k e.key = .lt) : s.loadCheck x tag k = some .order := by
  rw [State.loadCheck, if_neg (not_not.mpr hlimits), if_pos]
  simp [State.lastLoadedKey_some hl he, h]

variable (horder : ∀ (last : Nat) (e : Entry), x.shelf.entries.getLast? = some last → s.entry last = some e →
  compareKeys k e.key ≠ .lt)
include horder

theorem State.loadCheck_ordered : s.loadCheck x tag k = if (s.lookup tag).isSome then some .dupTag
    else if Config.poolPlaces ≤ s.pool.length ∨ Config.runCapacity ≤ x.shelf.entries.length then some .full
    else none := by
  rw [State.loadCheck, if_neg (not_not.mpr hlimits), if_neg]
  simp only [Option.any_eq_true, beq_iff_eq, not_exists, not_and]
  intro key hkey
  obtain ⟨last, e, hl, he, rfl⟩ := State.lastLoadedKey_eq_some hkey
  exact horder last e hl he

theorem State.loadCheck_dupTag (h : ∃ y ∈ s.pool, y.2.tag = tag) : s.loadCheck x tag k = some .dupTag := by
  rw [State.loadCheck_ordered hlimits horder, if_pos]
  rw [Option.isSome_iff_ne_none, Ne, State.lookup_none]
  simpa using h

theorem State.loadCheck_full (htag : ∀ y ∈ s.pool, y.2.tag ≠ tag)
    (h : 12288 ≤ s.pool.length ∨ 240 ≤ x.shelf.entries.length) : s.loadCheck x tag k = some .full := by
  rw [State.loadCheck_ordered hlimits horder, State.lookup_none.mpr htag]
  exact if_pos h

theorem State.loadCheck_passes (htag : ∀ y ∈ s.pool, y.2.tag ≠ tag) (hp : s.pool.length < 12288)
    (hx : x.shelf.entries.length < 240) : s.loadCheck x tag k = none := by
  rw [State.loadCheck_ordered hlimits horder, State.lookup_none.mpr htag]
  exact if_neg (not_or.mpr ⟨Nat.not_le.mpr hp, Nat.not_le.mpr hx⟩)

end

/-- A LOAD_ITEM that reaches its load checks. -/
theorem serveLoadItem_checks {run : U16} {tag : Tag} {key : CarriedKey} {initial : Byte} {s : State} {r : RunNo}
    {k : ShelfKey} {st : Status} {x : LoadedRun} (hr : run.toNat = r.val) (hk : readKey key = some k)
    (hst : initialStatusOperand initial = some st) (hx : s.run r = some x) (hg : x.stage = .loading) :
    serveLoadItem run tag key initial s = match s.loadCheck x tag k with
      | some c => refuse c s
      | none => taken (.itemLoaded (lowestFree 0 s.pool) (Entry.loaded tag k r st (s.strayOf tag)).status
          (Entry.loaded tag k r st (s.strayOf tag)).judgement ((s.strayOf tag).map fun y => (y.lastRun, y.lastPosition)))
          (s.withItem r tag k st) := by
  simp only [serveLoadItem, runOperand_some hr, hk, hst, hx, hg, ne_eq, not_true_eq_false, if_false]
  cases s.loadCheck x tag k <;> rfl

/-- Settles O24: the branches of the serving in the order of its tests, the load checks last. -/
theorem loadItemChecksInOrder : Obligations.LoadItemChecksInOrder := by
  intro run tag key initial s hs hm c refused
  have hexec {x : Condition} (hv : serveLoadItem run tag key initial (s.arrived c) = refuse x (s.arrived c)) : refused x :=
    exec_serving rfl rfl hs rfl (modeAmong_loadable hm _) hv
  refine ⟨fun h => hexec ?_, fun r hr => ⟨fun hkey => hexec ?_, fun k hk => ⟨fun h0 h3 => hexec ?_, fun hinit => ?_⟩⟩⟩
  · simp only [serveLoadItem, runOperand_none h]
  · simp only [serveLoadItem, runOperand_some hr, hkey]
  · simp only [serveLoadItem, runOperand_some hr, hk, initialStatusOperand_none h0 h3]
  obtain ⟨st, hst⟩ := initialStatusOperand_some hinit
  have hcheck {x : LoadedRun} {y : Condition} (hx : s.run r = some x) (hg : x.stage = .loading)
      (hv : s.loadCheck x tag k = some y) : refused y := by
    refine hexec ?_
    rw [serveLoadItem_checks hr hk hst ((s.arrived_run c r).trans hx) hg, State.arrived_loadCheck, hv]
  refine ⟨fun hnot => hexec ?_, fun x hx hg => ⟨fun h => hcheck hx hg (State.loadCheck_limits h), fun hlimits =>
    ⟨fun last e hl he h => hcheck hx hg (State.loadCheck_order hlimits hl he h), fun horder =>
      ⟨fun h => hcheck hx hg (State.loadCheck_dupTag hlimits horder h), fun htag h =>
        hcheck hx hg (State.loadCheck_full hlimits horder htag h)⟩⟩⟩⟩
  simp only [serveLoadItem, runOperand_some hr, hk, hst, State.arrived_run]
  cases hx : s.run r with
  | none => rfl
  | some x =>
    rw [State.runState_some hx, Ne, Stage.state_loading] at hnot
    exact if_pos hnot

theorem State.strayOf_none {s : State} {tag : Tag} (h : ∀ y ∈ s.strays, y.tag ≠ tag) : s.strayOf tag = none :=
  List.find?_eq_none.mpr fun y hy => by simpa using h y hy

theorem State.strayOf_some {s : State} {tag : Tag} {before after : List Stray} {y : Stray}
    (hs : s.strays = before ++ y :: after) (hy : y.tag = tag) (h : ∀ z ∈ before, z.tag ≠ tag) :
    s.strayOf tag = some y := by
  rw [State.strayOf, hs, List.find?_append, List.find?_eq_none.mpr fun z hz => by simpa using h z hz, Option.none_or,
    List.find?_cons_of_pos (by simpa using hy)]

/-- An accepted LOAD_ITEM in a canonical register: the pool and the one run it writes. -/
theorem State.withItem_eq {s : State} {r : RunNo} {x : LoadedRun} (hr : s.run r = some x) (tag : Tag) (k : ShelfKey)
    (st : Status) : s.withItem r tag k st =
      ({ s with strays := s.strays.filter fun y => y.tag ≠ tag,
                pool := tablePut (lowestFree 0 s.pool) (Entry.loaded tag k r st (s.strayOf tag)) s.pool } : State).setRun r
        { x with shelf := { entries := x.shelf.entries ++ [lowestFree 0 s.pool],
                            tallies := x.shelf.tallies.rise (Entry.loaded tag k r st (s.strayOf tag)).status } } := by
  refine (State.updateRun_some (x := x) ?_ _).trans ?_
  · exact hr
  · rfl

/-- Settles O25: the lowest free place takes the entry, made with the stray of its tag or without one. -/
theorem loadItemCreatesOrAdopts : Obligations.LoadItemCreatesOrAdopts := by
  intro run r tag key k initial st x s hs hm hcan hrun hk hinit hr hg hlimits horder htag hpool hlen c
  have hst : initialStatusOperand initial = some st := by
    rcases hinit with ⟨h, rfl⟩ | ⟨h, rfl⟩ <;> simp [initialStatusOperand, h]
  have hr' : (s.arrived c).run r = some x := (s.arrived_run c r).trans hr
  have hcheck := State.loadCheck_passes hlimits horder htag hpool hlen
  have hexec : exec c s = .next (((s.arrived c).withItem r tag k st).responded c .ok
      (.itemLoaded (lowestFree 0 s.pool) (Entry.loaded tag k r st (s.strayOf tag)).status
        (Entry.loaded tag k r st (s.strayOf tag)).judgement
        ((s.strayOf tag).map fun y => (y.lastRun, y.lastPosition)))) := by
    refine exec_serving rfl rfl hs rfl (modeAmong_loadable hm _) ((serveLoadItem_checks hrun hk hst hr' hg).trans ?_)
    rw [State.arrived_loadCheck, hcheck, State.arrived_strayOf, State.arrived_pool]
    rfl
  refine ⟨lowestFree 0 s.pool, lowestFree_free 0 hcan.1 fun _ _ => Nat.zero_le _, fun j hj => ?_,
    fun hnone => ?_, fun before after y hys hy hz => ?_⟩
  · exact lowestFree_below 0 s.pool (Nat.zero_le j) hj
  · have hfilter : (s.strays.filter fun y => y.tag ≠ tag) = s.strays :=
      List.filter_eq_self.mpr fun y hy => by simpa using hnone y hy
    rw [hexec, State.withItem_eq hr', State.arrived_strayOf, State.strayOf_none hnone, State.arrived_strays, hfilter,
      State.arrived_pool]
    rfl
  · have hbefore (z : Stray) (h : z ∈ before) : z.tag ≠ tag := hz z (List.mem_append_left _ h)
    have hafter (z : Stray) (h : z ∈ after) : z.tag ≠ tag := hz z (List.mem_append_right _ h)
    have hfilter : (s.strays.filter fun y => y.tag ≠ tag) = before ++ after := by
      rw [hys, List.filter_append, List.filter_cons_of_neg (by simpa using hy),
        List.filter_eq_self.mpr fun z h => by simpa using hbefore z h,
        List.filter_eq_self.mpr fun z h => by simpa using hafter z h]
    rw [hexec, State.withItem_eq hr', State.arrived_strayOf, State.strayOf_some hys hy hbefore, State.arrived_strays,
      hfilter, State.arrived_pool]
    rfl

/-! ## LOAD_DONE, UNLOAD_RUN, RESET_PASSES and CLOSE_RUN -/

theorem Stage.closable_iff {g : Stage} : g.closable = true ↔ g.state ∈ [RunState.ready, .checked, .rescan, .review] := by
  cases g <;> simp [Stage.closable, Stage.state]

/-- Settles O26: each request's branches, by the state of its run. -/
theorem runRequestsMoveTheirRuns : Obligations.RunRequestsMoveTheirRuns := by
  intro run s hs hm
  have hdone {x : Condition} {d : Data} {t : State} (hv : serveLoadDone run (s.arrived (.loadDone .lp5 run)) = ⟨x, d, t⟩) :
      exec (.loadDone .lp5 run) s = .next (t.responded (.loadDone .lp5 run) x d) :=
    exec_serving rfl rfl hs rfl (modeAmong_loadable hm _) hv
  have hunload {x : Condition} {d : Data} {t : State}
      (hv : serveUnloadRun run (s.arrived (.unloadRun .lp5 run)) = ⟨x, d, t⟩) :
      exec (.unloadRun .lp5 run) s = .next (t.responded (.unloadRun .lp5 run) x d) :=
    exec_serving rfl rfl hs rfl (modeAmong_loadable hm _) hv
  have hreset {x : Condition} {d : Data} {t : State}
      (hv : serveResetPasses run (s.arrived (.resetPasses .lp5 run)) = ⟨x, d, t⟩) :
      exec (.resetPasses .lp5 run) s = .next (t.responded (.resetPasses .lp5 run) x d) :=
    exec_serving rfl rfl hs rfl (modeAmong_loadable hm _) hv
  have hclose {x : Condition} {d : Data} {t : State} (hv : serveCloseRun run (s.arrived (.closeRun .lp5 run)) = ⟨x, d, t⟩) :
      exec (.closeRun .lp5 run) s = .next (t.responded (.closeRun .lp5 run) x d) :=
    exec_serving rfl rfl hs rfl (modeAmong_loadable hm _) hv
  refine ⟨fun h c hc => ?_, fun r hr => ⟨⟨fun hnot => hdone ?_, fun x hx hg => hdone ?_⟩,
    ⟨fun hx => hunload ?_, fun x hx hnot => hunload ?_, fun x hx hg => hunload ?_⟩,
    ⟨fun hnot hnot' => hreset ?_, fun x hx hg => hreset ?_⟩, fun hnot => hclose ?_, fun x hx hg => hclose ?_⟩⟩
  · simp only [List.mem_cons, List.not_mem_nil, or_false] at hc
    rcases hc with rfl | rfl | rfl | rfl
    · exact hdone (by simp only [serveLoadDone, runOperand_none h, refuse])
    · exact hunload (by simp only [serveUnloadRun, runOperand_none h, refuse])
    · exact hreset (by simp only [serveResetPasses, runOperand_none h, refuse])
    · exact hclose (by simp only [serveCloseRun, runOperand_none h, refuse])
  · simp only [serveLoadDone, runOperand_some hr, State.arrived_run]
    cases hx : s.run r with
    | none => rfl
    | some x => exact if_neg (by rwa [State.runState_some hx, Ne, Stage.state_loading] at hnot)
  · simp only [serveLoadDone, runOperand_some hr, State.arrived_run, hx, if_pos hg, taken]
  · simp only [serveUnloadRun, runOperand_some hr, State.arrived_run, hx, refuse]
  · simp only [serveUnloadRun, runOperand_some hr, State.arrived_run, hx, LoadedRun.unloadable_iff, if_neg hnot, refuse]
  · simp only [serveUnloadRun, runOperand_some hr, State.arrived_run, hx, LoadedRun.unloadable_iff, if_pos hg, taken,
      State.unload, State.arrived_pool, State.arrived_runs, tableErase]
  · simp only [serveResetPasses, runOperand_some hr, State.arrived_run]
    cases hx : s.run r with
    | none => rfl
    | some x =>
      rw [State.runState_some hx, Ne, Stage.state_checked] at hnot
      rw [State.runState_some hx, Ne, Stage.state_review] at hnot'
      exact if_neg (not_or.mpr ⟨hnot, hnot'⟩)
  · simp only [serveResetPasses, runOperand_some hr, State.arrived_run, hx, if_pos hg, taken]
  · simp only [serveCloseRun, runOperand_some hr, State.arrived_run]
    cases hx : s.run r with
    | none => rfl
    | some x => exact if_neg (by rwa [State.runState_some hx, ← Stage.closable_iff] at hnot)
  · rw [State.runState_some hx, ← Stage.closable_iff] at hg
    simp only [serveCloseRun, runOperand_some hr, State.arrived_run, hx, if_pos hg, taken, Shelf.completion]

end Sys2Proof.Machine
end

section
/-! PROOFS. Chapters 3 and 4: claims, and the ends of passes. -/
namespace Sys2Proof.Machine

/-! ## CLAIM (R49, R50) -/

/-- What an accepted claim makes of the part that has the request's frame. -/
theorem State.beginPass_arrived (s : State) (c : Instr) (w : WandPort) (i : ShelfIndex) (r : RunNo) (x : LoadedRun) :
    (s.arrived c).beginPass w i r x =
      ({ s.arrived c with passSerial := s.passSerial + 1 }.setRun r
        { x with passCount := x.passCount + 1,
                 stage := .claimed
                  { claimant := w, timer := s.config.claimInterval,
                    pass := { serial := s.passSerial + 1, direction := (s.wand w).current.direction, anchor := none,
                              pendingEntry := none, lastPosition := none, counters := ⟨0, 0, 0, 0, 0, 0, 0⟩ } } }).setWand w
        { s.wand w with current := { (s.wand w).current with cursor := some i, claimedRun := some r } } := by
  simp only [State.beginPass, State.updateContext, State.wand, State.setRun_wands, State.arrived_wands,
    State.arrived_config, State.arrived_passSerial]
  rfl

theorem State.claimReport_arrived (s : State) (c : Instr) (w : WandPort) (r : RunNo) (x : LoadedRun) :
    (s.arrived c).claimReport w r x =
      { run := r, serial := s.passSerial + 1, passCount := x.passCount + 1, direction := (s.wand w).current.direction,
        length := x.length, itemCount := x.shelf.entries.length } := by
  simp only [State.claimReport, State.arrived_passSerial, State.arrived_wand]

theorem Stage.claimable_state {g : Stage} : g.claimable = true ↔ g.state = .ready ∨ g.state = .rescan := by
  cases g <;> simp [Stage.claimable, Stage.state]

theorem Context.resolve_bayA (c : Context) {i : ShelfIndex} {n : Nat} (hi : i.number = n) (hn : n < 7) :
    (c.resolve i).val = c.bayA.val * 7 + n := by
  obtain ⟨side, j⟩ := i
  cases side
  · rw [← hi]
    rfl
  · simp only [ShelfIndex.number] at hi
    omega

theorem Context.resolve_bayB (c : Context) {i : ShelfIndex} {n : Nat} (hi : i.number = n) (hn : 7 < n) :
    (c.resolve i).val = c.bayB.val * 7 + (n - 8) := by
  obtain ⟨side, j⟩ := i
  cases side
  · simp only [ShelfIndex.number] at hi
    omega
  · rw [← hi]
    exact congrArg _ (Nat.add_sub_cancel_left 8 _).symm

/-- Settles O27: the branches of the serving in the order of its tests, and the pass it begins. -/
theorem claimBeginsAPass : Obligations.ClaimBeginsAPass := by
  intro w index s hs hm c ctx refused
  have hexec {x : Condition} {d : Data} {t : State}
      (hv : serveClaim index w (s.arrived c) = { condition := x, data := d, state := t }) :
      exec c s = .next (t.responded c x d) := exec_wand rfl rfl rfl hs rfl (by rw [hm]; rfl) hv
  refine ⟨fun h => hexec ?_, fun i r hi hres => ⟨fun h => hres ▸ ctx.resolve_bayA hi h, fun h => hres ▸ ctx.resolve_bayB hi h,
    fun hready hrescan => hexec ?_, fun x hx hg => ?_⟩⟩
  · simp only [serveClaim, shelfOperand_none h, refuse]
  · simp only [serveClaim, shelfOperand_number hi, State.arrived_wand, State.arrived_run]
    rw [← hres]
    cases hx : s.run r with
    | none => rfl
    | some x =>
      rw [State.runState_some hx] at hready hrescan
      exact if_pos (by simp [Bool.eq_false_iff, Stage.claimable_state, hready, hrescan])
  have hrun : s.run (ctx.resolve i) = some x := hres ▸ hx
  have hclaim : (!x.stage.claimable) = false := by rw [Stage.claimable_iff.mpr hg]; rfl
  refine ⟨fun h => hexec ?_, fun hfree h => hexec ?_, fun hfree h => hexec ?_⟩
  · simp only [serveClaim, shelfOperand_number hi, State.arrived_wand, State.arrived_run]
    rw [hrun]
    simp only [hclaim, Bool.false_eq_true, if_false]
    exact if_pos h
  · simp only [serveClaim, shelfOperand_number hi, State.arrived_wand, State.arrived_run, State.arrived_passSerial]
    rw [hrun]
    simp only [hclaim, Bool.false_eq_true, if_false]
    exact (if_neg (not_not.mpr hfree)).trans (if_pos h)
  · simp only [serveClaim, shelfOperand_number hi, State.arrived_wand, State.arrived_run, State.arrived_passSerial]
    rw [hrun]
    simp only [hclaim, Bool.false_eq_true, if_false, State.beginPass_arrived, State.claimReport_arrived]
    refine (if_neg (not_not.mpr hfree)).trans ((if_neg (Nat.ne_of_lt h)).trans ?_)
    rw [hres]
    rfl

/-! ## CLAIM_NEXT (R74) -/

section
variable {s : State} {c : Context}

theorem State.searchClaim_skips {before : List ShelfIndex}
    (h : ∀ j ∈ before, ¬(s.runState (c.resolve j) = .ready ∨ s.runState (c.resolve j) = .rescan)) (l : List ShelfIndex) :
    s.searchClaim c (before ++ l) = s.searchClaim c l := by
  induction before with
  | nil => rfl
  | cons j before ih =>
    obtain ⟨hj, hrest⟩ := List.forall_mem_cons.mp h
    rw [List.cons_append, State.searchClaim, ih hrest]
    split
    · next x hx =>
      rw [State.runState_some hx, ← Stage.claimable_state] at hj
      exact if_neg hj
    · rfl

theorem State.searchClaim_found {i : ShelfIndex} {x : LoadedRun} (hx : s.run (c.resolve i) = some x)
    (hi : s.runState (c.resolve i) = .ready ∨ s.runState (c.resolve i) = .rescan) (after : List ShelfIndex) :
    s.searchClaim c (i :: after) = some (i, x) := by
  rw [State.runState_some hx, ← Stage.claimable_state] at hi
  simp only [State.searchClaim, hx, hi, if_true]

end

theorem State.searchClaim_arrived (s : State) (c : Instr) (k : Context) (l : List ShelfIndex) :
    (s.arrived c).searchClaim k l = s.searchClaim k l := by
  induction l with
  | nil => rfl
  | cons i l ih => simp only [State.searchClaim, State.arrived_run, ih]

theorem searchOrder_eq (cursor : Option ShelfIndex) :
    searchOrder cursor = windowOrder.filter fun j => cursor.all fun k => decide (k.number < j.number) := by
  cases cursor with
  | none => exact (List.filter_eq_self.mpr fun _ _ => rfl).symm
  | some k => rfl

/-- Settles O28: the search in window order finds what the statement splits the examined indices at. -/
theorem claimNextSearchesTheWindow : Obligations.ClaimNextSearchesTheWindow := by
  refine ⟨by decide, ?_⟩
  intro w s hs hm c ctx refused examined claimable
  have hexec {x : Condition} {d : Data} {t : State}
      (hv : serveClaimNext w (s.arrived c) = { condition := x, data := d, state := t }) :
      exec c s = .next (t.responded c x d) := exec_wand rfl rfl rfl hs rfl (by rw [hm]; rfl) hv
  have hserve (hfree : ctx.claimedRun = none) : serveClaimNext w (s.arrived c) =
      match s.searchClaim ctx examined with
      | none => refuse .none (s.arrived c)
      | some (i, x) =>
        if s.passSerial.toNat = Config.serialMax then refuse .full (s.arrived c)
        else taken (.claimedNext i ((s.arrived c).claimReport w (ctx.resolve i) x))
          ((s.arrived c).beginPass w i (ctx.resolve i) x) := by
    unfold serveClaimNext
    simp only [State.arrived_wand, State.searchClaim_arrived, State.arrived_passSerial, searchOrder_eq]
    exact (if_neg (not_not.mpr hfree)).trans rfl
  refine ⟨fun h => hexec ?_, fun hfree hnone => hexec ?_, fun before after i r x hfree hex hbefore hi hres hx =>
    ⟨fun h => hexec ?_, fun h => hexec ?_⟩⟩
  · simp only [serveClaimNext, State.arrived_wand]
    exact if_pos h
  · have hsearch : s.searchClaim ctx examined = none := by
      rw [← List.append_nil examined, State.searchClaim_skips hnone]
      rfl
    rw [hserve hfree, hsearch]
    rfl
  all_goals
    have hsearch : s.searchClaim ctx examined = some (i, x) := by
      rw [hex, State.searchClaim_skips hbefore, State.searchClaim_found (hres ▸ hx) hi]
    rw [hserve hfree, hsearch]
  · exact if_pos h
  · refine (if_neg (Nat.ne_of_lt h)).trans ?_
    rw [State.beginPass_arrived, State.claimReport_arrived, hres]
    rfl

/-! ## The claimant test (R56) -/

section
variable {s : State} {w : WandPort} {r : RunNo} {x : LoadedRun}

theorem State.claimantTest_unloaded (h : s.run r = none) : s.claimantTest w r = .inl .noClaim := by
  simp only [State.claimantTest, h]

theorem State.claimantTest_claimant (hr : s.run r = some x) {k : Claim} (hx : x.stage = .claimed k)
    (hk : k.claimant = w) : s.claimantTest w r = .inr (x, k) := by
  simp only [State.claimantTest, hr, hx, hk, if_true]

theorem State.claimantTest_other (hr : s.run r = some x) {k : Claim} (hx : x.stage = .claimed k)
    (hk : k.claimant ≠ w) : s.claimantTest w r = .inl .notClaimant := by
  simp only [State.claimantTest, hr, hx, if_neg hk]

theorem State.claimantTest_held (hr : s.run r = some x) {k : Claim} (hx : x.stage = .held k) :
    s.claimantTest w r = .inl .notClaimant := by
  simp only [State.claimantTest, hr, hx]

theorem State.claimantTest_free (hr : s.run r = some x) (hx : x.stage.claim? = none) :
    s.claimantTest w r = if x.lastPass.port? = some w then .inl .notClaimant else .inl .noClaim := by
  simp only [State.claimantTest, hr]
  cases hg : x.stage <;> simp_all [Stage.claim?]

end

theorem State.claimantTest_arrived (s : State) (c : Instr) (w : WandPort) (r : RunNo) :
    (s.arrived c).claimantTest w r = s.claimantTest w r := by
  simp only [State.claimantTest, State.arrived_run]

/-- Settles O29: a claimant test that fails gives the condition of both requests. -/
theorem onlyTheClaimantEndsItsPass : Obligations.OnlyTheClaimantEndsItsPass := by
  intro w run s c hs hm hc refused
  have hrange (h : 280 ≤ run.toNat) : refused .range := by
    rcases hc with rfl | rfl
    · exact exec_wand rfl rfl rfl hs rfl (modeAmong_opened hm _ _) (by simp only [serveRunEnd, runOperand_none h, refuse])
    · exact exec_wand rfl rfl rfl hs rfl (modeAmong_opened hm _ _)
        (by simp only [serveRunAbandon, runOperand_none h, refuse])
  have htest {r : RunNo} {y : Condition} (hr : run.toNat = r.val) (h : s.claimantTest w r = .inl y) : refused y := by
    rcases hc with rfl | rfl
    · exact exec_wand rfl rfl rfl hs rfl (modeAmong_opened hm _ _)
        (by simp only [serveRunEnd, runOperand_some hr, State.claimantTest_arrived, h, refuse])
    · exact exec_wand rfl rfl rfl hs rfl (modeAmong_opened hm _ _)
        (by simp only [serveRunAbandon, runOperand_some hr, State.claimantTest_arrived, h, refuse])
  refine ⟨hrange, fun r hr => ⟨fun hx => htest hr (State.claimantTest_unloaded hx), fun x hx =>
    ⟨fun k hg hk => htest hr (State.claimantTest_other hx hg hk), fun k hg => htest hr (State.claimantTest_held hx hg),
      fun hg hp => htest hr ?_, fun hg hp => htest hr ?_⟩⟩⟩
  · rw [State.claimantTest_free hx hg, if_pos hp]
  · rw [State.claimantTest_free hx hg, if_neg hp]

/-! ## RUN_END (R57, R95) -/

theorem Counters.clean_iff {n : Counters} :
    n.clean = true ↔ n.ahead = 0 ∧ n.behind = 0 ∧ n.visitors = 0 ∧ n.strays = 0 ∧ n.gaps = 0 := by
  simp [Counters.clean, and_assoc]

section
variable {s : State} {r : RunNo} {w : WandPort} {p : PassRecord}

theorem State.judgePassEnd_none (h : p.pendingEntry = none) : s.judgePassEnd r w p = s := by
  simp only [State.judgePassEnd, h]

variable {i : Nat} {e : Entry} (hi : p.pendingEntry = some i) (he : s.entry i = some e)
include hi he

theorem State.judgePassEnd_some :
    s.judgePassEnd r w p = s.judge r w i e (passEndJudgement p.direction (s.anchorKey p) e.key) := by
  simp only [State.judgePassEnd, hi, he]

theorem State.judgePassEnd_no_anchor (ha : p.anchor = none) : s.judgePassEnd r w p = s.judge r w i e .inOrder := by
  rw [State.judgePassEnd_some hi he, State.anchorKey_none s ha]
  rfl

theorem State.judgePassEnd_anchor {a : Nat} {f : Entry} (ha : p.anchor = some a) (hf : s.entry a = some f) :
    s.judgePassEnd r w p =
      s.judge r w i e (if comesBefore p.direction e.key f.key = true then .behind else .inOrder) := by
  rw [State.judgePassEnd_some hi he, State.anchorKey_some ha hf]
  rfl

end

/-- The stage and the last pass that the counters of an ended pass choose. -/
theorem serveRunEnd_eq {run : U16} {r : RunNo} {w : WandPort} {s : State} {x : LoadedRun} {k : Claim}
    (hr : run.toNat = r.val) (hx : s.run r = some x) (hg : x.stage = .claimed k) (hk : k.claimant = w) :
    serveRunEnd run w s =
      if ((s.judgePassEnd r w k.pass).counters r).clean = true then
        taken (.passEnded r .clean .checked x.passCount ((s.judgePassEnd r w k.pass).counters r))
          (s.passEnded r w k .checked (.clean w k.pass.serial) .clean)
      else
        taken (.passEnded r .unclean (stageAfterPass x.passCount s.config.passLimit).state x.passCount
            ((s.judgePassEnd r w k.pass).counters r))
          (s.passEnded r w k (stageAfterPass x.passCount s.config.passLimit) (.unclean w k.pass.serial) .unclean) := by
  simp only [serveRunEnd, runOperand_some hr, State.claimantTest_claimant hx hg hk]
  split_ifs with hclean
  · rfl
  · rw [State.judgePassEnd_config]
    rfl

/-- Settles O30: the pending entry's judgement is one of the three, and the counters choose among the ends. -/
theorem runEndJudgesAndEndsThePass : Obligations.RunEndJudgesAndEndsThePass := by
  rintro w run r x k s judged hs hm hr hx hg hk c hjudged n rfl clean ended
  have hpass : (s.arrived c).judgePassEnd r w k.pass = judged := by
    rcases hjudged with ⟨hnone, rfl⟩ | ⟨i, e, hi, he, hcase⟩
    · exact State.judgePassEnd_none hnone
    have he' : (s.arrived c).entry i = some e := (s.arrived_entry c i).trans he
    rcases hcase with ⟨ha, rfl⟩ | ⟨a, f, ha, hf, hcase⟩
    · exact State.judgePassEnd_no_anchor hi he' ha
    rw [State.judgePassEnd_anchor hi he' ha ((s.arrived_entry c a).trans hf)]
    rcases hcase with ⟨hb, rfl⟩ | ⟨hb, rfl⟩
    · rw [if_pos hb]
    · rw [if_neg (by simp [hb])]
  have hserve := serveRunEnd_eq (s := s.arrived c) hr ((s.arrived_run c r).trans hx) hg hk
  simp only [State.passEnded, hpass, State.arrived_config] at hserve
  have hexec {y : Condition} {d : Data} {t : State}
      (hv : serveRunEnd run w (s.arrived c) = { condition := y, data := d, state := t }) :
      exec c s = .next (t.responded c y d) := exec_wand rfl rfl rfl hs rfl (modeAmong_opened hm _ _) hv
  refine ⟨fun hclean => hexec ?_, fun hnot hlt => hexec ?_, fun hnot hle => hexec ?_⟩
  · rw [hserve, if_pos (Counters.clean_iff.mpr hclean)]
    rfl
  · rw [hserve, if_neg (mt Counters.clean_iff.mp hnot), stageAfterPass, if_pos hlt]
    rfl
  · rw [hserve, if_neg (mt Counters.clean_iff.mp hnot), stageAfterPass, if_neg (Nat.not_lt.mpr hle)]
    rfl

/-! ## RUN_ABANDON and FORCE_RELEASE (R59, R60) -/

theorem stageAfterPass_state (passCount passLimit : Nat) :
    (stageAfterPass passCount passLimit).state = if passCount < passLimit then .rescan else .review := by
  unfold stageAfterPass
  split <;> rfl

theorem State.releaseClaim_some {s : State} {r : RunNo} {k : Claim} (h : s.claim? r = some k) (y : Reason) :
    s.releaseClaim r y = (s.abandon r y).notify k.claimant.port (.released r y) := by
  simp only [State.releaseClaim, h]

/-- Settles O31: both abandon the pass, and answer with what it was. -/
theorem abandonAndForceReleaseEndPasses : Obligations.AbandonAndForceReleaseEndPasses := by
  intro run s hm
  constructor
  · intro w r x k hs hr hx hg hk c
    refine exec_wand rfl rfl rfl hs rfl (modeAmong_opened hm _ _) ?_
    simp only [serveRunAbandon, runOperand_some hr, State.claimantTest_arrived, State.claimantTest_claimant hx hg hk,
      State.arrived_config, stageAfterPass_state, taken]
  · intro hs c
    have hexec {y : Condition} {d : Data} {t : State}
        (hv : serveForceRelease run (s.arrived c) = { condition := y, data := d, state := t }) :
        exec c s = .next (t.responded c y d) := exec_serving rfl rfl hs rfl (modeAmong_opened hm _ _) hv
    refine ⟨fun h => hexec ?_, fun r hr => ⟨fun hfree => hexec ?_, fun x k hx hg => hexec ?_⟩⟩
    · simp only [serveForceRelease, runOperand_none h, refuse]
    · simp only [serveForceRelease, runOperand_some hr, State.arrived_run]
      cases hx : s.run r with
      | none => rfl
      | some x =>
        have hstage : x.stage.claim? = none := by simpa [State.claim?, hx] using hfree
        simp only [hstage, refuse]
    · have hclaim : (s.arrived c).claim? r = some k :=
        (s.arrived_claim c r).trans (State.claim_some.mpr ⟨x, hx, hg⟩)
      simp only [serveForceRelease, runOperand_some hr, State.arrived_run, hx, Stage.claim_some.mpr hg,
        State.releaseClaim_some hclaim, State.arrived_config, stageAfterPass_state]
      rfl

end Sys2Proof.Machine
end

section
/-! PROOFS. Chapter 5: the position tests and the judgements. Writing one entry of the pool is said once, and every change of
an entry and of its status is such a writing. -/
namespace Sys2Proof.Machine

/-! ## One entry written -/

/-- The part with one place of the pool written. -/
def State.withEntry (s : State) (i : Nat) (e : Entry) : State := { s with pool := tablePut i e s.pool }

section
variable (s : State) (i : Nat) (e : Entry)

theorem State.entry_withEntry : (s.withEntry i e).entry i = some e := tableGet_put_self i e s.pool

@[simp] theorem State.withEntry_runs : (s.withEntry i e).runs = s.runs := rfl
@[simp] theorem State.withEntry_config : (s.withEntry i e).config = s.config := rfl
@[simp] theorem State.withEntry_clock : (s.withEntry i e).clock = s.clock := rfl

theorem State.withEntry_withEntry (f : Entry) : (s.withEntry i e).withEntry i f = s.withEntry i f := by
  simp only [State.withEntry, tablePut_put natOrder]

theorem State.updateEntry_withEntry (f : Entry → Entry) : (s.withEntry i e).updateEntry i f = s.withEntry i (f e) :=
  (State.updateEntry_some (s.entry_withEntry i e) f).trans (s.withEntry_withEntry i e (f e))

theorem State.offer_withEntry (d : Discrepancy) : (s.withEntry i e).offer d = (s.offer d).withEntry i e := by
  refine (State.offer_withPool s d _).trans ?_
  rw [State.withEntry, State.offer_pool]

/-- A run is changed beside the pool. -/
theorem State.updateRun_withEntry (r : RunNo) (f : LoadedRun → LoadedRun) :
    (s.withEntry i e).updateRun r f = (s.updateRun r f).withEntry i e := by
  have hrun : (s.withEntry i e).run r = s.run r := rfl
  unfold State.updateRun
  rw [hrun]
  split <;> rfl

variable {s i e}

theorem State.updateEntry_eq (he : s.entry i = some e) (f : Entry → Entry) : s.updateEntry i f = s.withEntry i (f e) :=
  State.updateEntry_some he f

/-- Writing what the pool lists leaves it as it is. -/
theorem State.withEntry_self (hs : tableSorted s.pool = true) (he : s.entry i = some e) : s.withEntry i e = s := by
  simp only [State.withEntry, tablePut_self natOrder hs he]

end

/-! ## One status written -/

/-- The tallies of a run as one of its entries goes from a status to another. -/
def Tallies.restatus (t : Tallies) (old new : Status) : Tallies := if old = new then t else t.move old new

/-- A run as one of its entries goes from a status to another. -/
def LoadedRun.restatus (old new : Status) (x : LoadedRun) : LoadedRun :=
  { x with shelf := { x.shelf with tallies := x.shelf.tallies.restatus old new } }

theorem LoadedRun.restatus_same (st : Status) (x : LoadedRun) : x.restatus st st = x := by
  simp [LoadedRun.restatus, Tallies.restatus]

theorem LoadedRun.restatus_move {old new : Status} (h : old ≠ new) (x : LoadedRun) :
    x.restatus old new = { x with shelf := { x.shelf with tallies := x.shelf.tallies.move old new } } := by
  simp only [LoadedRun.restatus, Tallies.restatus, if_neg h]

section
variable (s : State) (i : Nat) (e : Entry)

/-- A status change, and a change of the home run after it, are one writing of the entry and one change of the run. -/
theorem State.updateRun_setStatus (st : Status) (g : LoadedRun → LoadedRun) :
    ((s.withEntry i e).setStatus i st).updateRun e.homeRun g =
      (s.withEntry i { e with status := st }).updateRun e.homeRun fun x => g (x.restatus e.status st) := by
  by_cases h : e.status = st
  · subst h
    rw [State.setStatus_same (s.entry_withEntry i e) rfl]
    simp only [LoadedRun.restatus_same]
  · rw [State.setStatus_move (s.entry_withEntry i e) h]
    change (((s.withEntry i e).withEntry i _).updateRun _ _).updateRun _ _ = _
    rw [State.withEntry_withEntry, State.updateRun_updateRun]
    simp only [LoadedRun.restatus_move h]

/-- A status change in a canonical register. -/
theorem State.setStatus_withEntry (hs : tableSorted s.runs = true) (st : Status) :
    (s.withEntry i e).setStatus i st =
      (s.withEntry i { e with status := st }).updateRun e.homeRun (LoadedRun.restatus e.status st) := by
  by_cases h : e.status = st
  · subst h
    rw [State.setStatus_same (s.entry_withEntry i e) rfl]
    exact (State.updateRun_self (s := s.withEntry i e) hs fun x _ => x.restatus_same _).symm
  · rw [State.setStatus_move (s.entry_withEntry i e) h]
    change ((s.withEntry i e).withEntry i _).updateRun _ _ = _
    rw [State.withEntry_withEntry]
    exact congrArg _ (funext fun x => (x.restatus_move h).symm)

end

/-! ## Judgements (R97, R98) -/

section
variable {s : State} {r : RunNo} {i : Nat} {e : Entry} {y : LoadedRun} {k : Claim}

theorem State.updatePass_claimed (hr : s.run r = some y) (hy : y.stage = .claimed k) (f : PassRecord → PassRecord) :
    s.updatePass r f = s.setRun r { y with stage := .claimed { k with pass := f k.pass } } := by
  refine (State.updateRun_some hr _).trans ?_
  rw [hy]
  rfl

/-- An entry of the claimed run judged: the entry, the tally move and the counter. -/
theorem State.judged_eq (hr : s.run r = some y) (hy : y.stage = .claimed k) (he : s.entry i = some e)
    (hh : e.homeRun = r) (g : Judgement) (st : Status) (n : Counter) :
    ((s.updateEntry i fun e => { e with judgement := some g }).setStatus i st).count r n =
      (s.withEntry i { e with judgement := some g, status := st }).setRun r
        { y with
          stage := .claimed { k with pass := { k.pass with counters := k.pass.counters.rise n } }
          shelf := { y.shelf with tallies := y.shelf.tallies.restatus e.status st } } := by
  subst hh
  rw [State.updateEntry_eq he]
  refine (s.updateRun_setStatus i { e with judgement := some g } st _).trans ?_
  refine (State.updateRun_some (x := y) ?_ _).trans ?_
  · exact hr
  simp only [LoadedRun.restatus, hy]
  rfl

end

theorem Entry.position_of {e : Entry} {l : LastSighting} (h : e.lastSighting = some l) : e.position = l.position := by
  simp only [Entry.position, h]

/-- Settles O36: each judgement with effects is the same writing, with its own counter, record and prompt. -/
theorem judgementWritesItsEntry : Obligations.JudgementWritesItsEntry := by
  intro r w i e l y k s hr hy he hh hl judged record more n
  refine ⟨State.judged_eq hr hy he hh .inOrder .shelved .inOrder, ?_, ?_⟩
  all_goals
    simp only [State.judge, judgementRecord, hl, Entry.position_of hl, Option.map_some]
  · rw [State.judged_eq hr hy he hh .ahead .displaced .ahead]
    rfl
  · rw [State.judged_eq hr hy he hh .behind .displaced .behind]
    rfl

/-! ## The position tests (R81 to R84) -/

/-- How far a position lies beyond another in the direction of travel. -/
def travelled (d : Direction) (last position : Nat) : Int :=
  if d = .forward then (position : Int) - (last : Int) else (last : Int) - (position : Int)

theorem isBacktrack_iff {d : Direction} {tolerance last position : Nat} :
    isBacktrack d tolerance last position = true ↔ travelled d last position < -(tolerance : Int) := by
  cases d <;> simp only [isBacktrack, travelled, decide_eq_true_iff, if_true, reduceCtorEq, if_false] <;> omega

theorem isGap_iff {d : Direction} {limit last position : Nat} :
    isGap d limit last position = true ↔ (limit : Int) < travelled d last position := by
  cases d <;> simp only [isGap, travelled, decide_eq_true_iff, if_true, reduceCtorEq, if_false] <;> omega

theorem advancePosition_eq (d : Direction) (last position : Nat) :
    advancePosition d (some last) position = if 0 < travelled d last position then position else last := by
  cases d <;> simp only [advancePosition, travelled, if_true, reduceCtorEq, if_false] <;> split_ifs <;> omega

section
variable {s : State} {r : RunNo} {w : WandPort} {y : LoadedRun} {k : Claim}

/-- An accepted sighting of a claimed run. -/
theorem State.accept_eq (hr : s.run r = some y) (hy : y.stage = .claimed k) (position : Nat) :
    s.accept r position = s.updateClaim r fun c =>
      { c with
        timer := s.config.claimInterval
        pass := { c.pass with
          lastPosition := some (advancePosition k.pass.direction k.pass.lastPosition position) } } := by
  unfold State.accept State.updateClaim
  rw [State.updateRun_some hr, State.updateRun_some hr, hy]
  rfl

theorem State.gapTest_first {p : PassRecord} (h : p.lastPosition = none) (position : Nat) :
    s.gapTest r w p position = s := by
  simp only [State.gapTest, h]

theorem State.gapTest_near {p : PassRecord} {l : Nat} (h : p.lastPosition = some l) {position : Nat}
    (hl : travelled p.direction l position ≤ (s.config.gapLimit : Int)) : s.gapTest r w p position = s := by
  simp only [State.gapTest, h]
  exact if_neg fun hgap => absurd (isGap_iff.mp hgap) (Int.not_lt.mpr hl)

theorem State.gapTest_gap {p : PassRecord} {l : Nat} (h : p.lastPosition = some l) {position : Nat}
    (hl : (s.config.gapLimit : Int) < travelled p.direction l position) : s.gapTest r w p position =
      ((s.offer { kind := .gap, time := s.clock, run := some r, port := some w.port, position := some l,
                  positionTo := some position }).count r .gaps).prompt w (.gap l position) := by
  simp only [State.gapTest, h]
  exact if_pos (isGap_iff.mpr hl)

/-- A sighting in the pass of a claimed run. -/
theorem State.sightOne_eq (hr : s.run r = some y) (hy : y.stage = .claimed k) (x : Sighting) : s.sightOne r w x =
    if (k.pass.lastPosition.any fun l =>
        isBacktrack k.pass.direction s.config.backtrackTolerance l (min x.position.toNat y.length)) = true then
      ((.backtrack, decide (y.length < x.position.toNat)), s)
    else
      let t := (s.gapTest r w k.pass (min x.position.toNat y.length)).accept r (min x.position.toNat y.length)
      let out := t.classify r w k.pass.serial (min x.position.toNat y.length) (decide (y.length < x.position.toNat)) x.tag
      ((out.1, decide (y.length < x.position.toNat)), out.2) := by
  simp only [State.sightOne, hr, hy, Stage.claim?]

end

/-- Settles O34: the sighting's tests read as comparisons of the advance. -/
theorem positionTestsComeBeforeClassification : Obligations.PositionTestsComeBeforeClassification := by
  intro r w x y k s hr hy position clamped advanced accepted classified
  have hadv (l : Nat) : advanced l = travelled k.pass.direction l position := rfl
  have hone := State.sightOne_eq (w := w) hr hy x
  refine ⟨fun hnone => ?_, fun l hl => ?_⟩
  · rw [hone, hnone, if_neg (by simp), State.gapTest_first hnone, State.accept_eq hr hy, hnone]
    rfl
  rw [hl, Option.any_some] at hone
  have hlast : advancePosition k.pass.direction k.pass.lastPosition position = if 0 < advanced l then position else l := by
    rw [hl, advancePosition_eq]
    rfl
  refine ⟨fun hback => ?_, fun hfront hnear => ?_, fun hfront hgap => ?_⟩
  · rw [hone, if_pos (isBacktrack_iff.mpr hback)]
  · rw [hone, if_neg (fun h => absurd (isBacktrack_iff.mp h) (Int.not_lt.mpr hfront)), State.gapTest_near hl hnear,
      State.accept_eq hr hy, hlast]
  · rw [hone, if_neg (fun h => absurd (isBacktrack_iff.mp h) (Int.not_lt.mpr hfront)), State.gapTest_gap hl hgap]
    have hr' (t : State) (ht : t.run r = some y) (n : Prompt) : ((t.count r .gaps).prompt w n).run r =
        some { y with stage := .claimed { k with pass := { k.pass with counters := k.pass.counters.rise .gaps } } } := by
      rw [State.count, State.updatePass_claimed ht hy]
      exact (State.run_setRun ..).trans (if_pos rfl)
    rw [State.accept_eq (hr' _ (by simpa [State.run] using hr) _) rfl, hlast]
    simp only [State.prompt_config, State.count_config, State.offer_config]
    rfl

end Sys2Proof.Machine
end

section
/-! PROOFS. Chapters 5 and 6: the classification of a reading, and SIGHT as a whole. -/
namespace Sys2Proof.Machine

/-! ## A reading of an entry -/

/-- The flags of an entry once a reading of it was clamped or not. -/
def Entry.clampedBy (e : Entry) (clamped : Bool) : Entry :=
  { e with flags := { e.flags with clamped := e.flags.clamped || clamped } }

/-- The pass record without an entry in its pending slot. -/
def PassRecord.without (i : Nat) (p : PassRecord) : PassRecord :=
  if p.pendingEntry = some i then { p with pendingEntry := none } else p

section
variable {s : State} {i : Nat} {e : Entry}

/-- The CLAMPED flag is one writing of the entry, be the reading clamped or not. -/
theorem State.clamped_eq (hp : tableSorted s.pool = true) (he : s.entry i = some e) (clamped : Bool) :
    (if clamped = true then s.updateEntry i fun e => { e with flags := { e.flags with clamped := true } } else s) =
      s.withEntry i (e.clampedBy clamped) := by
  cases clamped with
  | true =>
    rw [if_pos rfl, State.updateEntry_eq he, Entry.clampedBy, Bool.or_true]
  | false =>
    rw [if_neg Bool.false_ne_true, Entry.clampedBy, Bool.or_false]
    exact (State.withEntry_self hp he).symm

theorem State.withdraw_withEntry (hs : tableSorted s.runs = true) :
    (s.withEntry i e).withdraw i = (s.updatePass e.homeRun (PassRecord.without i)).withEntry i e := by
  rw [State.withdraw_eq (s := s.withEntry i e) hs (s.entry_withEntry i e)]
  exact s.updateRun_withEntry i e _ _

theorem State.updatePass_without {r : RunNo} {k : Claim} (hs : tableSorted s.runs = true) (hr : s.claim? r = some k)
    (hk : k.pass.pendingEntry ≠ some i) : s.updatePass r (PassRecord.without i) = s := by
  refine State.updatePass_same hs fun c hc => ?_
  rw [hr] at hc
  cases hc
  exact if_neg hk

variable {r : RunNo} {w : WandPort} {serial : U32} {position : Nat} {clamped : Bool} {tag : Tag}

/-- A second reading in the pass goes to the re-sighting rules, a first one to the fresh ones (R85, R87). -/
theorem State.classify_again (hp : tableSorted s.pool = true) (hl : s.lookup tag = some (i, e)) {l : LastSighting}
    (he : e.lastSighting = some l) (hn : l.serial = serial) : s.classify r w serial position clamped tag =
      (s.withEntry i (e.clampedBy clamped)).sightAgain r w serial position i e l := by
  rw [← State.clamped_eq hp (State.lookup_entry hp hl)]
  simp only [State.classify, hl, he, if_pos hn]

theorem State.classify_fresh (hp : tableSorted s.pool = true) (hl : s.lookup tag = some (i, e))
    (he : ∀ l, e.lastSighting = some l → l.serial ≠ serial) : s.classify r w serial position clamped tag =
      (s.withEntry i (e.clampedBy clamped)).sightFresh r w serial position i e := by
  rw [← State.clamped_eq hp (State.lookup_entry hp hl)]
  simp only [State.classify, hl]
  cases hlast : e.lastSighting with
  | none => rfl
  | some l => exact if_neg (he l hlast)

theorem State.classify_stray (hl : ∀ x ∈ s.pool, x.2.tag ≠ tag) :
    s.classify r w serial position clamped tag = s.sightStray r w serial position tag := by
  simp only [State.classify, State.lookup_none.mpr hl]

end

/-! ## Fresh readings (R88, R89) -/

/-- An entry as a fresh reading of it leaves it, its status and judgement apart. -/
def Entry.read (e : Entry) (clamped : Bool) (l : LastSighting) : Entry :=
  { e with
    flags := { e.flags with
      clamped := e.flags.clamped || clamped, loanConflict := e.flags.loanConflict || e.status == Status.onLoan }
    lastSighting := some l }

/-- A PHANTOM_LOAN record is offered for an entry that is ON_LOAN. -/
def State.phantom (s : State) (e : Entry) (d : Discrepancy) : State := if e.status = .onLoan then s.offer d else s

section
variable (s : State) (i : Nat) (e f : Entry) (d : Discrepancy)

theorem State.phantom_withEntry : (s.withEntry i f).phantom e d = (s.phantom e d).withEntry i f := by
  unfold State.phantom
  split
  · exact s.offer_withEntry i f d
  · rfl

@[simp] theorem State.phantom_runs : (s.phantom e d).runs = s.runs := by
  unfold State.phantom
  split <;> simp

@[simp] theorem State.phantom_clock : (s.phantom e d).clock = s.clock := by
  unfold State.phantom
  split <;> simp

/-- The loan conflict of a reading: the flag and the record. -/
theorem State.loanConflict_eq (clamped : Bool) (l : LastSighting) :
    (if e.status = .onLoan then
      ((s.withEntry i { e.clampedBy clamped with lastSighting := some l }).updateEntry i fun e =>
        { e with flags := { e.flags with loanConflict := true } }).offer d
      else s.withEntry i { e.clampedBy clamped with lastSighting := some l }) =
      (s.phantom e d).withEntry i (e.read clamped l) := by
  unfold State.phantom Entry.read
  split_ifs with h
  · rw [State.updateEntry_withEntry, State.offer_withEntry, beq_iff_eq.mpr h, Bool.or_true]
    rfl
  · rw [beq_false_of_ne h, Bool.or_false]
    rfl

end

section
variable {s : State} {r : RunNo} {w : WandPort} {serial : U32} {position : Nat} {clamped : Bool} {i : Nat} {e : Entry}

/-- A fresh reading: the entry leaves its pending slot and is read, then a visitor or an arrival. -/
theorem State.sightFresh_eq (hs : tableSorted s.runs = true) {t : State}
    (ht : t = ((s.updatePass e.homeRun (PassRecord.without i)).phantom e
      (readingRecord s .phantomLoan r w i e.tag position)).withEntry i
        (e.read clamped (s.reading r w serial position))) :
    (s.withEntry i (e.clampedBy clamped)).sightFresh r w serial position i e =
      if e.homeRun ≠ r then (.visitor, t.visit r w position i e)
      else match (t.updateEntry i fun e => { e with judgement := some .unjudged }).claim? r with
        | some c => (.inRun, (t.updateEntry i fun e => { e with judgement := some .unjudged }).arrive r w c.pass i e.key)
        | none => (.inRun, t.updateEntry i fun e => { e with judgement := some .unjudged }) := by
  have hclock : (s.updatePass e.homeRun (PassRecord.without i)).clock = s.clock := by simp
  have hread : ((s.updatePass e.homeRun (PassRecord.without i)).withEntry i (e.clampedBy clamped)).reading r w serial
      position = s.reading r w serial position := by
    simp only [State.reading, State.withEntry_clock, hclock]
  have hrecord (g : Entry) : readingRecord ((s.updatePass e.homeRun (PassRecord.without i)).withEntry i g)
      .phantomLoan r w i e.tag position = readingRecord s .phantomLoan r w i e.tag position := by
    simp only [readingRecord, State.withEntry_clock, hclock]
  have hwithdraw : (s.withEntry i (e.clampedBy clamped)).withdraw i =
      (s.updatePass e.homeRun (PassRecord.without i)).withEntry i (e.clampedBy clamped) := State.withdraw_withEntry hs
  unfold State.sightFresh
  simp only [hwithdraw, State.updateEntry_withEntry, hread, hrecord, ne_eq]
  have hconflict := State.loanConflict_eq (s.updatePass e.homeRun (PassRecord.without i)) i e
    (readingRecord s .phantomLoan r w i e.tag position) clamped (s.reading r w serial position)
  rw [State.updateEntry_withEntry] at hconflict
  simp only [hconflict, ← ht] <;> split_ifs <;> rfl

theorem State.visit_eq {t : State} (ht : tableSorted t.runs = true) (f : Entry) :
    (t.withEntry i f).visit r w position i e =
      ((((t.withEntry i { f with judgement := some .visitor, status := .displaced }).updateRun f.homeRun
          (LoadedRun.restatus f.status .displaced)).count r .visitors).offer
        (readingRecord t .visitor r w i e.tag position)).prompt w (.pull e.tag position (some .visitor)) := by
  unfold State.visit
  simp only [State.updateEntry_withEntry]
  rw [State.setStatus_withEntry t i { f with judgement := some .visitor } ht]
  simp only [readingRecord, State.count_clock, State.updateRun_clock, State.withEntry_clock]

end

/-- Settles O37: a home entry stands in no other pending slot and arrives; an entry of another run becomes a visitor. -/
theorem freshReadingsAreHomeItemsOrVisitors : Obligations.FreshReadingsAreHomeItemsOrVisitors := by
  intro r w position clamped tag i e y k s hcan hr hy hl hfresh seen record phantom put
  obtain ⟨hpool, hruns⟩ := hcan
  obtain rfl := State.lookup_tag hl
  have hclaim : s.claim? r = some k := State.claim_some.mpr ⟨y, hr, .inl hy⟩
  have hclass := (State.classify_fresh (r := r) (w := w) (position := position) (clamped := clamped) hpool hl hfresh).trans
    (State.sightFresh_eq hruns rfl)
  refine ⟨fun hh hp => ?_, fun hh => ?_⟩
  · subst hh
    rw [hclass, if_neg (not_not.mpr rfl), State.updatePass_without hruns hclaim hp, State.updateEntry_withEntry,
      ← State.phantom_withEntry]
    have hclaim' (f : Entry) (d : Discrepancy) : ((s.withEntry i f).phantom e d).claim? e.homeRun = some k := by
      rw [State.claim?, State.run, State.phantom_runs]
      exact hclaim
    simp only [hclaim']
    rfl
  · have hsorted (d : Discrepancy) :
        tableSorted ((s.updatePass e.homeRun (PassRecord.without i)).phantom e d).runs = true := by
      rw [State.phantom_runs]
      exact (State.Canonical.updatePass (s := s) ⟨hpool, hruns⟩ _ _).2
    rw [hclass, if_pos hh, State.visit_eq (hsorted _), ← State.phantom_withEntry]
    simp only [readingRecord, State.phantom_clock, State.updatePass_clock]
    rfl

/-! ## Second readings (R111, R112) -/

theorem distance_le_iff {a b n : Nat} : distance a b ≤ n ↔ ¬(b + n < a ∨ a + n < b) := by
  unfold distance
  omega

/-- Settles O38: absorbed within the debounce span, a move beyond it. -/
theorem secondReadingsAreAbsorbedOrMoves : Obligations.SecondReadingsAreAbsorbedOrMoves := by
  intro r w position clamped tag i e l y k s hcan hr hy hl he hn far flags moved
  obtain rfl := State.lookup_tag hl
  have hnear : (l.run = r ∧ distance position l.position ≤ s.config.debounceSpan) ↔ ¬far := by
    rw [distance_le_iff]
    simp only [far, not_or, ne_eq, not_not]
  have hclass := State.classify_again (r := r) (w := w) (position := position) (clamped := clamped) hcan.1 hl he hn
  unfold State.sightAgain at hclass
  refine ⟨fun h => ?_, fun h => ?_⟩
  · rw [hclass]
    exact if_pos (hnear.mpr h)
  · rw [hclass]
    refine (if_neg fun hn => hnear.mp hn h).trans ?_
    simp only [State.updateEntry_withEntry, State.offer_withEntry, State.withEntry_clock, State.reading]
    exact congrArg (fun t => (SightOutcome.moved, State.count t r .moved)) (State.offer_withEntry ..).symm

/-! ## Strays (R105 to R109) -/

/-- Changing the one record of a tag changes its place in the list alone. -/
theorem map_stray {before after : List Stray} {y : Stray} (f : Stray → Stray)
    (h : ∀ z ∈ before ++ after, z.tag ≠ y.tag) :
    ((before ++ y :: after).map fun z => if z.tag = y.tag then f z else z) = before ++ f y :: after := by
  have hsame (l : List Stray) (hl : ∀ z ∈ l, z.tag ≠ y.tag) : (l.map fun z => if z.tag = y.tag then f z else z) = l :=
    (List.map_congr_left fun z hz => if_neg (hl z hz)).trans l.map_id
  rw [List.map_append, List.map_cons, if_pos rfl, hsame before fun z hz => h z (List.mem_append_left _ hz),
    hsame after fun z hz => h z (List.mem_append_right _ hz)]

section
variable {s : State} {y : Stray}

theorem State.addStray_last (h : s.strays.length = 511) : s.addStray y =
    ({ s with strays := s.strays ++ [y] } : State).notify .lp5 .strayFull := by
  unfold State.addStray
  exact if_pos (by simp [h, Config.strayCapacity])

theorem State.addStray_room (h : s.strays.length < 511) : s.addStray y = { s with strays := s.strays ++ [y] } := by
  unfold State.addStray
  exact if_neg (by simp only [List.length_append, List.length_singleton, Config.strayCapacity]; omega)

end

/-- Settles O39: the rows of the Stray List, for a stray that it holds and for one that it does not. -/
theorem strayReadingsFollowTheStrayList : Obligations.StrayReadingsFollowTheStrayList := by
  intro r w serial position clamped tag s hunlisted counted outcome
  have hout : outcome = s.sightStray r w serial position tag := State.classify_stray hunlisted
  refine ⟨?_, fun hnew => ?_⟩
  · intro before after y hs hy hz near again
    subst hy
    have hstray : s.strayOf y.tag = some y :=
      State.strayOf_some hs rfl fun z hz' => hz z (List.mem_append_left _ hz')
    have hnear : (y.lastSerial = serial ∧ y.lastRun = r ∧ distance position y.lastPosition ≤ s.config.debounceSpan) ↔
        near := by
      rw [distance_le_iff, not_or, Nat.not_lt, Nat.not_lt]
    simp only [State.sightStray, hstray, hs, map_stray _ hz] at hout
    exact ⟨fun h => hout.trans (if_pos (hnear.mpr h)), fun h => hout.trans (if_neg (mt hnear.mp h))⟩
  · intro listed pull
    simp only [State.sightStray, State.strayOf_none hnew] at hout
    have hcap : Config.strayCapacity = 512 := rfl
    refine ⟨fun h => hout.trans ?_, fun h => hout.trans ?_, fun h => hout.trans ?_⟩
    · rw [if_pos (by omega), State.addStray_room h]
      rfl
    · rw [if_pos (by omega), State.addStray_last h]
      rfl
    · rw [if_neg (by omega)]
      rfl

/-! ## SIGHT (R79, R80) -/

/-- The run is claimed, and its pass has an accepted position. -/
def Stage.Positioned (g : Stage) : Prop := ∃ k l, g = .claimed k ∧ k.pass.lastPosition = some l

/-- The same of a run of the part. -/
def State.Positioned (s : State) (r : RunNo) : Prop := ∃ x, s.run r = some x ∧ x.stage.Positioned

theorem Stage.Positioned.mapClaim {g : Stage} (h : g.Positioned) {f : Claim → Claim}
    (hf : ∀ k : Claim, k.pass.lastPosition.isSome = true → (f k).pass.lastPosition.isSome = true) :
    (g.mapClaim f).Positioned := by
  obtain ⟨k, l, rfl, hl⟩ := h
  obtain ⟨n, hn⟩ := Option.isSome_iff_exists.mp (hf k (by rw [hl]; rfl))
  exact ⟨f k, n, rfl, hn⟩

theorem State.Positioned.of_runs {s t : State} {r : RunNo} (h : s.Positioned r) (ht : t.runs = s.runs) :
    t.Positioned r := by
  obtain ⟨x, hx, hg⟩ := h
  exact ⟨x, by rwa [State.run, ht], hg⟩

theorem State.Positioned.updateRun {s : State} {r : RunNo} (h : s.Positioned r) (q : RunNo)
    {f : LoadedRun → LoadedRun} (hf : ∀ x, x.stage.Positioned → (f x).stage.Positioned) :
    (s.updateRun q f).Positioned r := by
  obtain ⟨x, hx, hg⟩ := h
  rw [State.Positioned, State.run_updateRun]
  split_ifs with hq
  · subst hq
    exact ⟨f x, by rw [hx]; rfl, hf x hg⟩
  · exact ⟨x, hx, hg⟩

theorem State.Positioned.updatePass {s : State} {r : RunNo} (h : s.Positioned r) (q : RunNo)
    {f : PassRecord → PassRecord} (hf : ∀ p, (f p).lastPosition = p.lastPosition) : (s.updatePass q f).Positioned r :=
  h.updateRun q fun x hx => hx.mapClaim fun k hk => by rw [hf, hk]

/-- Once positioned, a run stays so in the pass. -/
theorem State.Positioned.move {s t : State} {r q : RunNo} {w : WandPort} (h : s.Positioned r) (hm : Move q w s t) :
    t.Positioned r := by
  cases hm with
  | offer d => exact h.of_runs (by simp)
  | prompt n => exact h.of_runs (by simp)
  | entry i f => exact h.of_runs (by simp)
  | addStray y => exact h.of_runs (by simp)
  | strays f => exact h.of_runs rfl
  | pass f hf => exact h.updatePass _ hf
  | accept n => exact h.updateRun _ fun x hx => hx.mapClaim fun k _ => rfl
  | withdraw i =>
    unfold State.withdraw
    split
    · exact h.updatePass _ fun _ => rfl
    · exact h
  | status i st =>
    unfold State.setStatus
    split
    · split
      · exact h
      · exact (h.of_runs (State.updateEntry_runs ..)).updateRun _ fun x hx => hx
    · exact h

theorem State.Positioned.moves {s t : State} {r q : RunNo} {w : WandPort} (h : s.Positioned r) (hm : Moves q w s t) :
    t.Positioned r := hm.keep (P := (State.Positioned · r)) (fun _ _ hab ha => ha.move hab) h

/-- What moves leave of a claimed run is claimed. -/
theorem Moves.claimed {s t : State} {r q : RunNo} {w : WandPort} (h : Moves q w s t) {x : LoadedRun} {k : Claim}
    (hx : s.run r = some x) (hk : x.stage = .claimed k) : ∃ y j, t.run r = some y ∧ y.stage = .claimed j := by
  have hout : (t.run r).map LoadedRun.outline = some x.outline := by
    rw [← Option.map_some (f := LoadedRun.outline), ← hx]
    exact congrFun h.outline r
  obtain ⟨y, hy, hyx⟩ := Option.map_eq_some_iff.mp hout
  have hstage := congrArg LoadedRun.stage hyx
  cases hg : y.stage <;> simp [LoadedRun.outline, hg, hk, Stage.mapClaim] at hstage
  exact ⟨y, _, hy, hg⟩

/-- A sighting in the pass of a claimed run leaves it with an accepted position. -/
theorem State.sightOne_positioned {s : State} {r : RunNo} {x : LoadedRun} {k : Claim} (w : WandPort)
    (hx : s.run r = some x) (hk : x.stage = .claimed k) (g : Sighting) : (s.sightOne r w g).2.Positioned r := by
  rw [State.sightOne_eq hx hk]
  split_ifs with hback
  · cases hl : k.pass.lastPosition with
    | none => simp [hl] at hback
    | some l => exact ⟨x, hx, k, l, hk, hl⟩
  · refine State.Positioned.moves ?_ (classify_moves _ _ _ _)
    obtain ⟨y, j, hy, hj⟩ := (gapTest_moves (w := w) k.pass (min g.position.toNat x.length)).claimed hx hk
    refine ⟨_, (State.run_updateRun ..).trans ((if_pos rfl).trans (by rw [hy]; rfl)), ?_⟩
    dsimp only
    rw [hj]
    exact ⟨_, _, rfl, rfl⟩

theorem State.sightAll_cons (s : State) (r : RunNo) (w : WandPort) (x : Sighting) (rest : List Sighting) :
    s.sightAll r w (x :: rest) =
      ((s.sightOne r w x).1 :: ((s.sightOne r w x).2.sightAll r w rest).1, ((s.sightOne r w x).2.sightAll r w rest).2) :=
  rfl

theorem State.sightAll_length (s : State) (r : RunNo) (w : WandPort) (xs : List Sighting) :
    (s.sightAll r w xs).1.length = xs.length := by
  induction xs generalizing s with
  | nil => rfl
  | cons x xs ih => rw [State.sightAll_cons, List.length_cons, ih, List.length_cons]

/-- Settles O33: the sightings are taken in turn, and the first leaves an accepted position that the others keep. -/
theorem sightTakesItsSightingsInOrder : Obligations.SightTakesItsSightingsInOrder := by
  refine ⟨fun r w s => rfl, ?_, ?_⟩
  · intro r w x rest s t u o os hone hall
    rw [State.sightAll_cons, hone, hall]
  intro w sightings s hs hm hpos hmax c
  have hexec {y : Condition} {d : Data} {t : State}
      (hv : serveSight sightings w (s.arrived c) = { condition := y, data := d, state := t }) :
      exec c s = .next (t.responded c y d) :=
    exec_wand rfl (by simp [c, Instr.wellFormed, hpos, hmax]) rfl hs rfl (by rw [hm]; rfl) hv
  refine ⟨fun hnone => hexec ?_, fun r x k hheld hr hx => ?_⟩
  · simp only [serveSight, State.arrived_wand, hnone, refuse]
  have hr' : (s.arrived c).run r = some x := (s.arrived_run c r).trans hr
  have hpositioned : ((s.arrived c).sightAll r w sightings).2.Positioned r := by
    cases sightings with
    | nil => simp at hpos
    | cons g rest =>
      rw [State.sightAll_cons]
      exact (State.sightOne_positioned w hr' hx g).moves (sightAll_moves ..)
  obtain ⟨y, hy, j, l, hj, hl⟩ := hpositioned
  refine ⟨_, _, y, j, l, rfl, State.sightAll_length .., hy, hj, hl, hexec ?_⟩
  have hclaim : (s.arrived c).claim? r = some k := State.claim_some.mpr ⟨x, hr', .inl hx⟩
  have hlast : ((s.arrived c).sightAll r w sightings).2.claim? r = some j := State.claim_some.mpr ⟨y, hy, .inl hj⟩
  simp only [serveSight, State.arrived_wand, hheld, hclaim, hlast, Option.bind_some, hl, taken]

end Sys2Proof.Machine
end

section
/-! PROOFS. Chapters 7 and 8: circulation, windows, diversion and resumption, and the notice mask. -/
namespace Sys2Proof.Machine

/-! ## Circulation reports (R125) -/

section
variable {s : State} {i : Nat} {e f : Entry}

theorem State.circulationReport_eq (h : s.entry i = some f) (d : Option DiscrepancyKind) :
    s.circulationReport i e d =
      { index := i, homeRun := e.homeRun, found := e.status, after := f.status, flags := f.flags, record := d } := by
  simp only [State.circulationReport, h, Option.getD_some]

theorem State.entry_of_pool {t : State} (h : t.pool = s.pool) (i : Nat) : t.entry i = s.entry i := by
  rw [State.entry, State.entry, h]

theorem State.circulationReport_offer (x : Discrepancy) (d : Option DiscrepancyKind) :
    ((s.withEntry i f).offer x).circulationReport i e d =
      { index := i, homeRun := e.homeRun, found := e.status, after := f.status, flags := f.flags, record := d } :=
  State.circulationReport_eq ((State.entry_of_pool (State.offer_pool ..) i).trans (s.entry_withEntry i f)) d

theorem State.circulationReport_updateRun (r : RunNo) (g : LoadedRun → LoadedRun) (d : Option DiscrepancyKind) :
    ((s.withEntry i f).updateRun r g).circulationReport i e d =
      { index := i, homeRun := e.homeRun, found := e.status, after := f.status, flags := f.flags, record := d } :=
  State.circulationReport_eq ((State.entry_of_pool (State.updateRun_pool ..) i).trans (s.entry_withEntry i f)) d

/-- A change to another status. -/
theorem State.setStatus_withEntry_move (s : State) (i : Nat) {e : Entry} {st : Status} (h : e.status ≠ st) :
    (s.withEntry i e).setStatus i st = (s.withEntry i { e with status := st }).updateRun e.homeRun fun x =>
      { x with shelf := { x.shelf with tallies := x.shelf.tallies.move e.status st } } := by
  refine (State.setStatus_move (s.entry_withEntry i e) h).trans ?_
  exact congrArg (State.updateRun · e.homeRun _) (s.withEntry_withEntry i e _)

end

/-! ## LOAN (R117 to R119) -/

theorem seenStatus_eq (st : Status) : seenStatus st = (st == Status.shelved || st == Status.displaced) := by
  cases st <;> rfl

/-- An entry with the SEEN_BEFORE_LOAN flag raised or not. -/
def Entry.seenBy (e : Entry) (seen : Bool) : Entry :=
  { e with flags := { e.flags with seenBeforeLoan := e.flags.seenBeforeLoan || seen } }

theorem State.flagSeen_eq {s : State} {i : Nat} {e : Entry} (hp : tableSorted s.pool = true) (he : s.entry i = some e)
    (seen : Bool) : (if seen = true then s.flagSeenBeforeLoan i else s) = s.withEntry i (e.seenBy seen) := by
  cases seen with
  | true => rw [if_pos rfl, State.flagSeenBeforeLoan, State.updateEntry_eq he, Entry.seenBy, Bool.or_true]
  | false =>
    rw [if_neg Bool.false_ne_true, Entry.seenBy, Bool.or_false]
    exact (State.withEntry_self hp he).symm

theorem State.flagLoanConflict_withEntry (s : State) (i : Nat) (e : Entry) : (s.withEntry i e).flagLoanConflict i =
    s.withEntry i { e with flags := { e.flags with loanConflict := true } } :=
  s.updateEntry_withEntry i e _

/-- A LOAN of a listed entry, its withdrawal and its SEEN_BEFORE_LOAN flag made. -/
theorem serveLoan_eq {s : State} {tag : Tag} {i : Nat} {e : Entry} (hs : s.Canonical) (hl : s.lookup tag = some (i, e))
    {t : State} {f : Entry} (ht : t = s.updatePass e.homeRun (PassRecord.without i))
    (hf : f = e.seenBy ((s.pendingRun i).isSome || seenStatus e.status)) :
    serveLoan tag s =
      if e.status = .onLoan then
        taken (.lent { index := i, homeRun := e.homeRun, found := e.status, after := f.status,
                       flags := { f.flags with loanConflict := true }, record := some .loanConflict } (s.pendingRun i))
          ((t.withEntry i { f with flags := { f.flags with loanConflict := true } }).offer
            (circulationRecord s .loanConflict i e))
      else
        taken (.lent { index := i, homeRun := e.homeRun, found := e.status, after := .onLoan, flags := f.flags,
                       record := none } (s.pendingRun i))
          ((t.withEntry i { f with status := .onLoan }).updateRun e.homeRun fun x =>
            { x with shelf := { x.shelf with tallies := x.shelf.tallies.move e.status .onLoan } }) := by
  have he : s.entry i = some e := State.lookup_entry hs.1 hl
  have hwithdraw : s.withdraw i = t := (State.withdraw_eq hs.2 he).trans ht.symm
  have htpool : t.pool = s.pool := by rw [ht, State.updatePass_pool]
  have hseen := State.flagSeen_eq (s := t) (by rw [htpool]; exact hs.1) ((State.entry_of_pool htpool i).trans he)
    ((s.pendingRun i).isSome || seenStatus e.status)
  have hrecord : circulationRecord (t.withEntry i f) .loanConflict i e = circulationRecord s .loanConflict i e := by
    simp only [circulationRecord, State.withEntry_clock, ht, State.updatePass_clock]
  unfold serveLoan
  simp only [hl, hwithdraw, hseen, ← hf]
  split_ifs with h
  · rw [State.flagLoanConflict_withEntry, hrecord, State.circulationReport_offer, h]
    rfl
  · have hstatus : f.status = e.status := by rw [hf]; rfl
    have hhome : f.homeRun = e.homeRun := by rw [hf]; rfl
    rw [State.setStatus_withEntry_move t i (hstatus ▸ h), hstatus, hhome]
    have hnone : loanRecord e.status = none := by
      cases hst : e.status <;> first | rfl | exact absurd hst h
    rw [hnone, State.circulationReport_updateRun]

/-- Settles O40: the entry leaves its pending slot, is flagged, and is lent or found lent already. -/
theorem loanSendsItsEntryOut : Obligations.LoanSendsItsEntryOut := by
  intro tag s hs hm c
  have hexec {x : Condition} {d : Data} {t : State}
      (hv : serveLoan tag (s.arrived c) = { condition := x, data := d, state := t }) :
      exec c s = .next (t.responded c x d) := exec_serving rfl rfl hs rfl (modeAmong_opened hm _ _) hv
  refine ⟨fun hnone => hexec ?_, ?_⟩
  · simp only [serveLoan, State.arrived_lookup, State.lookup_none.mpr hnone, refuse]
  intro i e hcan hl slot free flags put
  have hslot : (s.arrived c).pendingRun i = slot :=
    (s.arrived_pendingRun c i).trans (State.pendingRun_eq (State.lookup_entry hcan.1 hl))
  have hserve := serveLoan_eq (s := s.arrived c) (t := free) (f := { e with flags := flags }) hcan
    ((s.arrived_lookup c tag).trans hl) rfl (by
      rw [hslot, seenStatus_eq, Entry.seenBy]
      simp only [flags, Bool.or_assoc])
  rw [hslot] at hserve
  refine ⟨fun h => hexec (hserve.trans (if_neg h)), fun h => hexec (hserve.trans ((if_pos h).trans ?_))⟩
  rw [circulationRecord, State.lookup_tag hl, h]
  rfl

/-! ## RETURN (R120, R121) -/

section
variable {s : State} {tag : Tag} {i : Nat} {e : Entry} (hs : s.Canonical) (hl : s.lookup tag = some (i, e))
include hs hl

/-- A RETURN of an entry found ON_LOAN. -/
theorem serveReturn_lent (h : e.status = .onLoan) : serveReturn tag s =
    taken (.returned { index := i, homeRun := e.homeRun, found := .onLoan, after := .returned, flags := e.flags,
                       record := none })
      ((s.withEntry i { e with status := .returned }).updateRun e.homeRun fun x =>
        { x with shelf := { x.shelf with tallies := x.shelf.tallies.move e.status .returned } }) := by
  have he : s.entry i = some e := State.lookup_entry hs.1 hl
  have hset := State.setStatus_withEntry_move s i (e := e) (st := .returned) (by rw [h]; decide)
  rw [State.withEntry_self hs.1 he] at hset
  simp only [serveReturn, hl, h, reduceCtorEq, if_false, true_or, if_true]
  rw [hset, State.circulationReport_updateRun, h]
  rfl

/-- A RETURN of an entry found EXPECTED. -/
theorem serveReturn_expected (h : e.status = .expected) : serveReturn tag s =
    taken (.returned { index := i, homeRun := e.homeRun, found := .expected, after := .returned,
                       flags := { e.flags with loanConflict := true }, record := some .returnConflict })
      (((s.withEntry i { e with status := .returned, flags := { e.flags with loanConflict := true } }).updateRun e.homeRun
        fun x => { x with shelf := { x.shelf with tallies := x.shelf.tallies.move e.status .returned } }).offer
          (circulationRecord s .returnConflict i e)) := by
  have he : s.entry i = some e := State.lookup_entry hs.1 hl
  have hflag : s.flagLoanConflict i = s.withEntry i { e with flags := { e.flags with loanConflict := true } } :=
    State.updateEntry_eq he _
  have hset := State.setStatus_withEntry_move s i (e := { e with flags := { e.flags with loanConflict := true } })
    (st := .returned) (by rw [h]; decide)
  simp only [serveReturn, hl, h, reduceCtorEq, if_false, or_true, if_true]
  rw [hflag, hset]
  simp only [circulationRecord, State.updateRun_clock, State.withEntry_clock]
  rw [State.updateRun_withEntry, State.circulationReport_offer, ← State.updateRun_withEntry, h]
  rfl

/-- A RETURN of an entry in any other status. -/
theorem serveReturn_other (hlent : e.status ≠ .onLoan) (hexp : e.status ≠ .expected) : serveReturn tag s =
    taken (.returned { index := i, homeRun := e.homeRun, found := e.status, after := e.status, flags := e.flags,
                       record := some .returnConflict })
      (s.offer (circulationRecord s .returnConflict i e)) := by
  have he : s.entry i = some e := State.lookup_entry hs.1 hl
  have hrecord : returnRecord e.status = some .returnConflict := by
    cases hst : e.status <;> first | rfl | exact absurd hst hlent
  simp only [serveReturn, hl, hlent, hexp, or_self, if_false, hrecord]
  refine congrArg (fun x => taken (.returned x) _) (State.circulationReport_eq ?_ _)
  rw [State.entry_of_pool (State.offer_pool ..), he]

end

/-- Settles O41: the three cases of the status that a RETURN finds. -/
theorem returnTakesItsEntryBack : Obligations.ReturnTakesItsEntryBack := by
  intro tag s hs hm c
  have hexec {x : Condition} {d : Data} {t : State}
      (hv : serveReturn tag (s.arrived c) = { condition := x, data := d, state := t }) :
      exec c s = .next (t.responded c x d) := exec_serving rfl rfl hs rfl (modeAmong_opened hm _ _) hv
  refine ⟨fun hnone => hexec ?_, ?_⟩
  · simp only [serveReturn, State.arrived_lookup, State.lookup_none.mpr hnone, refuse]
  intro i e hcan hl put record
  have hcan' : (s.arrived c).Canonical := hcan
  have hl' : (s.arrived c).lookup tag = some (i, e) := (s.arrived_lookup c tag).trans hl
  have hrecord : circulationRecord (s.arrived c) .returnConflict i e = record := by
    rw [circulationRecord, State.lookup_tag hl]
    rfl
  refine ⟨fun h => hexec (serveReturn_lent hcan' hl' h), fun h => hexec ?_, fun h h' => hexec ?_⟩
  · rw [serveReturn_expected hcan' hl' h, hrecord]
    rfl
  · rw [serveReturn_other hcan' hl' h h', hrecord]
    rfl

/-! ## Windows and slots (R71, R72, R128) -/

/-- Settles O42: the operands decide each of the three. -/
theorem windowRequestsWriteTheContext : Obligations.WindowRequestsWriteTheContext := by
  intro s hm
  refine ⟨?_, ?_, ?_⟩
  · intro w bayA bayB hs c store
    have hexec {x : Condition} {d : Data} {t : State}
        (hv : serveSetWindow bayA bayB w (s.arrived c) = { condition := x, data := d, state := t }) :
        exec c s = .next (t.responded c x d) := exec_wand rfl rfl rfl hs rfl (modeAmong_settled hm) hv
    refine ⟨fun h => hexec ?_, fun a b ha hb => hexec ?_⟩
    · unfold serveSetWindow
      split
      · next ha hb =>
        rcases h with h | h
        · rw [bayOperand_none h] at ha
          cases ha
        · rw [bayOperand_none h] at hb
          cases hb
      · rfl
    · simp only [serveSetWindow, bayOperand_some ha, bayOperand_some hb, State.updateContext, State.arrived_wand]
      rfl
  · intro w value hs c store
    have hexec {x : Condition} {d : Data} {t : State}
        (hv : serveSetDirection value w (s.arrived c) = { condition := x, data := d, state := t }) :
        exec c s = .next (t.responded c x d) := exec_wand rfl rfl rfl hs rfl (modeAmong_settled hm) hv
    refine ⟨fun h => hexec ?_, fun h hheld => hexec ?_, fun d hd hfree => hexec ?_⟩
    · simp only [serveSetDirection, directionOperand_none h, refuse]
    · obtain ⟨d, hd⟩ := directionOperand_some h
      simp only [serveSetDirection, hd, State.arrived_wand]
      exact if_pos hheld
    · rw [hd]
      simp only [serveSetDirection, directionOperand_code, State.updateContext, State.arrived_wand]
      exact if_neg (not_not.mpr hfree)
  · intro wand bayA bayB value hs c
    have hexec {x : Condition} {d : Data} {t : State}
        (hv : serveSetDivert wand bayA bayB value (s.arrived c) = { condition := x, data := d, state := t }) :
        exec c s = .next (t.responded c x d) := exec_serving rfl rfl hs rfl (modeAmong_settled hm) hv
    refine ⟨fun h => hexec ?_, fun v a b d hv ha hb hd => hexec ?_⟩
    · unfold serveSetDivert
      split
      · next hv ha hb hd =>
        rcases h with h | h | h | h
        · rw [wandOperand_none h] at hv
          cases hv
        · rw [bayOperand_none h] at ha
          cases ha
        · rw [bayOperand_none h] at hb
          cases hb
        · rw [directionOperand_none h] at hd
          cases hd
      · rfl
    · rw [hv, hd]
      simp only [serveSetDivert, wandOperand_port, bayOperand_some ha, bayOperand_some hb, directionOperand_code,
        State.arrived_wand]
      rfl

/-! ## DIVERT and RESUME (R129 to R133) -/

/-- Settles O43: the tests in their order, and the context set aside with its claim held. -/
theorem divertSetsTheContextAside : Obligations.DivertSetsTheContextAside := by
  intro wand s hs hm c refused
  have hexec {x : Condition} {d : Data} {t : State}
      (hv : serveDivert wand (s.arrived c) = { condition := x, data := d, state := t }) :
      exec c s = .next (t.responded c x d) := exec_serving rfl rfl hs rfl (modeAmong_opened hm _ _) hv
  refine ⟨fun h => hexec ?_, fun v hv => ⟨fun hempty => hexec ?_, fun prepared hslot => ⟨fun hdeep => hexec ?_, ?_⟩⟩⟩
  · simp only [serveDivert, wandOperand_none h, refuse]
  all_goals
    have hw : wandOperand wand = some v := hv ▸ wandOperand_port v
  · simp only [serveDivert, hw, State.arrived_wand, hempty, refuse]
  · simp only [serveDivert, hw, State.arrived_wand, hslot]
    exact if_pos hdeep
  · intro hroom old switched answer
    have hserve : serveDivert wand (s.arrived c) =
        taken (.diverted v ((s.wand v).stack.length + 1) old.claimedRun prepared)
          ((switched.holdRun old.claimedRun).notify v.port (.diverted prepared)) := by
      simp only [serveDivert, hw, State.arrived_wand, hslot]
      exact if_neg (Nat.not_le.mpr hroom)
    refine ⟨fun hfree => hexec ?_, fun r x k hheld hr hx => hexec ?_⟩
    · rw [hserve, hfree]
      rfl
    · have hhold : switched.holdRun (some r) = switched.setRun r { x with stage := .held k } := by
        refine (State.updateRun_some (x := x) ?_ _).trans (by rw [hx]; rfl)
        exact (s.arrived_run c r).trans hr
      rw [hserve, hheld, hhold]
      rfl

/-- Settles O44: the tests in their order, and the top context restored with its claim. -/
theorem resumeRestoresTheContext : Obligations.ResumeRestoresTheContext := by
  intro w s hs hm c refused
  have hexec {x : Condition} {d : Data} {t : State}
      (hv : serveResume w (s.arrived c) = { condition := x, data := d, state := t }) :
      exec c s = .next (t.responded c x d) := exec_wand rfl rfl rfl hs rfl (modeAmong_opened hm _ _) hv
  refine ⟨fun hheld => hexec ?_, fun hfree => ⟨fun hempty => hexec ?_, ?_⟩⟩
  · simp only [serveResume, State.arrived_wand]
    exact if_pos hheld
  · simp only [serveResume, State.arrived_wand, hempty]
    exact if_neg (not_not.mpr hfree)
  intro top rest hstack restored answer
  have hserve : serveResume w (s.arrived c) =
      taken (.resumed top.bayA top.bayB top.direction top.cursor
        (top.claimedRun.bind (restored.resumeRun top.claimedRun).resumedClaim) rest.length)
        (restored.resumeRun top.claimedRun) := by
    simp only [serveResume, State.arrived_wand, hstack]
    exact if_neg (not_not.mpr hfree)
  refine ⟨fun hnone => hexec ?_, fun r x k hheld hr hx => hexec ?_⟩
  · rw [hserve, hnone]
    rfl
  · have hrestored : restored.run r = some x := (s.arrived_run c r).trans hr
    have hresume : restored.resumeRun (some r) =
        restored.setRun r { x with stage := .claimed { k with timer := s.config.claimInterval } } := by
      refine (State.updateRun_some hrestored _).trans ?_
      rw [hx]
      rfl
    have hclaim : (restored.setRun r { x with stage := .claimed { k with timer := s.config.claimInterval } }).resumedClaim r =
        some { run := r, serial := k.pass.serial, passCount := x.passCount, lastPosition := k.pass.lastPosition } := by
      rw [State.resumedClaim, State.run_setRun, if_pos rfl]
      rfl
    rw [hserve, hheld, hresume, Option.bind_some, hclaim]
    rfl

/-! ## SET_MASK (R146) -/

theorem NoticeKind.bit_lt (k : NoticeKind) : k.bit < 9 := by cases k <;> decide

theorem getLsbD_shifted_one {a n : Nat} (hn : n < 9) : (1#9 <<< a).getLsbD n = decide (n = a) := by
  rw [← BitVec.twoPow_eq, BitVec.getLsbD_twoPow, Bool.eq_iff_iff]
  simp only [Bool.and_eq_true, decide_eq_true_eq]
  omega

/-- A set gathered kind by kind holds the bits of the kinds that pass. -/
theorem getLsbD_gathered (p : NoticeKind → Bool) (l : List NoticeKind) (m : BitVec 9) {n : Nat} (hn : n < 9) :
    (l.foldl (fun set k => if p k = true then set ||| (1#9 <<< k.bit) else set) m).getLsbD n =
      (m.getLsbD n || l.any fun k => p k && decide (n = k.bit)) := by
  induction l generalizing m with
  | nil => simp
  | cons k l ih =>
    rw [List.foldl_cons, ih, List.any_cons]
    cases p k <;> simp [getLsbD_shifted_one hn, Bool.or_assoc]

theorem HeldFlags.getLsbD_pendingSet (h : HeldFlags) (k : NoticeKind) :
    h.pendingSet.getLsbD k.bit = (h.get? k).isSome := by
  rw [HeldFlags.pendingSet, getLsbD_gathered (fun k => (h.get? k).isSome) heldOrder 0 k.bit_lt]
  cases k <;> simp [heldOrder, NoticeKind.bit, HeldFlags.get?]

/-- Settles O45: the operand's nine bits are the mask, and the pending set is gathered kind by kind. -/
theorem setMaskReplacesTheMask : Obligations.SetMaskReplacesTheMask := by
  intro p kinds s hs hm c
  have hexec {x : Condition} {d : Data} {t : State}
      (hv : serveSetMask p kinds (s.arrived c) = { condition := x, data := d, state := t }) :
      exec c s = .next (t.responded c x d) := exec_serving rfl rfl hs (by cases p <;> rfl) (modeAmong_settled hm) hv
  refine ⟨fun h => hexec ?_, fun h => ⟨kinds.setWidth 9, (s.port p).held.pendingSet, ?_,
    (s.port p).held.getLsbD_pendingSet, hexec ?_⟩⟩
  · simp only [serveSetMask, noticeSetOperand, if_neg (Nat.not_lt.mpr h), refuse]
  · rw [BitVec.toNat_setWidth]
    exact Nat.mod_eq_of_lt h
  · have hheld : ((s.arrived c).port p).held = (s.port p).held := by
      change ((s.updatePort p _).port p).held = _
      rw [State.port_updatePort_self]
    simp only [serveSetMask, noticeSetOperand, if_pos h, hheld, taken]

end Sys2Proof.Machine
end

section
/-! PROOFS. The reports on runs, entries, strays and records, LOCATE, the queues of records and notices, and the reset
state. -/
namespace Sys2Proof.Machine

/-! ## READ_RUN and QUERY_RUN (R66, R76, R77) -/

theorem State.arrived_shelfReport (s : State) (c : Instr) (w : WandPort) (i : ShelfIndex) :
    (s.arrived c).shelfReport w i = s.shelfReport w i := by
  simp only [State.shelfReport, State.arrived_wand, State.arrived_run, State.arrived_runState, State.arrived_claim]

theorem State.shelfReport_unloaded {s : State} {w : WandPort} {i : ShelfIndex}
    (h : s.run ((s.wand w).current.resolve i) = none) :
    s.shelfReport w i = .shelfReport i ((s.wand w).current.resolve i) .unloaded none none := by
  simp only [State.shelfReport, State.runState_none h, State.claim?, h, Option.map_none, Option.bind_none]

theorem State.shelfReport_loaded {s : State} {w : WandPort} {i : ShelfIndex} {x : LoadedRun}
    (h : s.run ((s.wand w).current.resolve i) = some x) :
    s.shelfReport w i = .shelfReport i ((s.wand w).current.resolve i) x.stage.state
      (some { itemCount := x.shelf.entries.length, tallies := x.shelf.tallies, completion := x.shelf.completion,
              passCount := x.passCount, lastOutcome := x.lastPass.outcome })
      (x.stage.claim?.map fun k => (k.claimant, k.claimant == w)) := by
  simp only [State.shelfReport, State.runState_some h, State.claim?, h, Option.map_some, Option.bind_some]

theorem State.arrived_bayReport (s : State) (c : Instr) (w : WandPort) (side : Side) :
    (s.arrived c).bayReport w side = s.bayReport w side := by
  simp only [State.bayReport, State.arrived_wand, State.arrived_runState, State.arrived_tallies, State.arrived_itemCount]

/-- The seven runs of a bay, told by their numbers. -/
theorem runs_of_bay {bay : Bay} {runs : List RunNo}
    (h : runs.map Fin.val = [0, 1, 2, 3, 4, 5, 6].map fun j : Nat => bay.val * 7 + j) :
    allShelves.map (runAt bay) = runs :=
  List.map_injective_iff.mpr Fin.val_injective (Eq.trans rfl h.symm)

/-- The report on a whole bay, its sums written as sums. -/
theorem State.bayReport_eq {s : State} {w : WandPort} {side : Side} {runs : List RunNo}
    (h : allShelves.map (runAt ((s.wand w).current.bay side)) = runs) :
    s.bayReport w side =
      { side := side, bay := (s.wand w).current.bay side, runs := runs.map fun r => (r, s.runState r)
        sums := ⟨(runs.map fun r => (s.tallies r).expected).sum, (runs.map fun r => (s.tallies r).shelved).sum,
          (runs.map fun r => (s.tallies r).displaced).sum, (runs.map fun r => (s.tallies r).onLoan).sum,
          (runs.map fun r => (s.tallies r).returned).sum, (runs.map fun r => (s.tallies r).missing).sum⟩
        itemCount := (runs.map s.itemCount).sum
        completion := completion (runs.map s.itemCount).sum (runs.map fun r => (s.tallies r).expected).sum
          (runs.map fun r => (s.tallies r).missing).sum } := by
  simp only [State.bayReport, h, foldl_tallies_eq_sums, foldl_add_eq_sum, Tallies.zero_add, Nat.zero_add]

theorem indexOperand_wholeBay {x : Byte} {side : Side}
    (h : x.toNat = (WorkingIndex.wholeBay side).number) : indexOperand x = some (.wholeBay side) := by
  unfold indexOperand
  cases side <;> simp only [WorkingIndex.number] at h
  · rw [dif_neg (by omega), if_pos h]
  · rw [dif_neg (by omega), if_neg (by omega), dif_neg (by omega), if_pos h]

/-- The timer of a run is running while the run is CLAIMED and the part counts. -/
theorem timerRunning_eq (g : Stage) (m : Mode) :
    (g.state == .claimed && m == .counting) =
      decide ((∃ k, g.claim? = some k ∧ g = .claimed k) ∧ m = .counting) := by
  have hclaimed : (∃ k, g.claim? = some k ∧ g = .claimed k) ↔ g.state = .claimed := by
    rw [Stage.state_claimed]
    exact ⟨fun ⟨k, _, hg⟩ => ⟨k, hg⟩, fun ⟨k, hg⟩ => ⟨k, hg ▸ rfl, hg⟩⟩
  rw [Bool.eq_iff_iff, decide_eq_true_iff, hclaimed, Bool.and_eq_true, beq_iff_eq, beq_iff_eq]

/-- Settles O46: the branches of the two servings, and the sums of a bay. -/
theorem runReportsShowTheRuns : Obligations.RunReportsShowTheRuns := by
  intro s hm
  refine ⟨fun run hs => ?_, fun w index hs => ?_⟩
  · intro c
    have hexec {d : Data} {x : Condition}
        (hv : serveReadRun run (s.arrived c) = { condition := x, data := d, state := s.arrived c }) :
        exec c s = .next ((s.arrived c).responded c x d) := exec_serving rfl rfl hs rfl (modeAmong_settled hm) hv
    refine ⟨fun h => hexec ?_, fun r hr => ⟨fun hx => hexec ?_, fun x hx => hexec ?_⟩⟩
    · simp only [serveReadRun, runOperand_none h, refuse]
    · simp only [serveReadRun, runOperand_some hr, State.arrived_run, hx, Option.map_none, taken]
    · simp only [serveReadRun, runOperand_some hr, State.arrived_run, hx, Option.map_some, State.arrived_mode,
        timerRunning_eq, taken]
  · intro c
    have hexec {d : Data} {x : Condition}
        (hv : serveQueryRun index w (s.arrived c) = { condition := x, data := d, state := s.arrived c }) :
        exec c s = .next ((s.arrived c).responded c x d) :=
      exec_wand (serve := serveQueryRun index) rfl rfl rfl hs rfl (modeAmong_settled hm) hv
    refine ⟨fun h => hexec ?_, fun i hi => ⟨fun hx => hexec ?_, fun x hx => hexec ?_⟩, fun side bay runs hside hruns => ?_⟩
    · simp only [serveQueryRun, indexOperand_none h, refuse]
    · simp only [serveQueryRun, indexOperand_number hi, State.arrived_shelfReport, State.shelfReport_unloaded hx, taken]
    · simp only [serveQueryRun, indexOperand_number hi, State.arrived_shelfReport, State.shelfReport_loaded hx, taken]
    · have hindex : index.toNat = (WorkingIndex.wholeBay side).number ∧ bay = (s.wand w).current.bay side := by
        rcases hside with ⟨rfl, h⟩ | ⟨rfl, h⟩ <;> exact h
      obtain ⟨hnumber, rfl⟩ := hindex
      refine hexec ?_
      simp only [serveQueryRun, indexOperand_wholeBay hnumber, State.arrived_bayReport,
        State.bayReport_eq (runs_of_bay hruns), taken]

/-! ## READ_ENTRY, QUERY_ITEM, READ_STRAY and READ_DISCREPANCY (R36 to R38, R114, R142) -/

/-- The report on an entry, its pending run told by the claim of its home run. -/
theorem State.arrived_entryReport {s : State} {i : Nat} {e : Entry} (he : s.entry i = some e) (c : Instr) :
    (s.arrived c).entryReport i e =
      { index := i, entry := e
        pendingIn :=
          (s.claim? e.homeRun).bind fun k => if k.pass.pendingEntry = some i then some e.homeRun else none } := by
  rw [State.entryReport, State.arrived_pendingRun, State.pendingRun_eq he]

/-- An ordinal past the end of a run's list names no entry. -/
theorem serveReadEntry_past {run : U16} {ordinal : Byte} {s : State} {r : RunNo} (hr : runOperand run = some r)
    (hordinal : ¬Config.entryOrdinals ≤ ordinal.toNat) (hcount : s.itemCount r ≤ ordinal.toNat) :
    serveReadEntry run ordinal s = { condition := .none, data := .itemCount (s.itemCount r), state := s } := by
  unfold State.itemCount at hcount ⊢
  cases hx : s.run r with
  | none => simp only [serveReadEntry, hr, if_neg hordinal, hx, List.getElem?_nil, Option.bind_none, List.length_nil]
  | some x =>
    rw [hx] at hcount
    simp only [serveReadEntry, hr, if_neg hordinal, hx, List.getElem?_eq_none hcount, Option.bind_none]

/-- Settles O47: the branches of the four servings. -/
theorem registerAndQueueReadings : Obligations.RegisterAndQueueReadings := by
  intro s hm report
  refine ⟨fun run ordinal hs => ?_, fun p tag hs => ?_, fun ordinal hs => ?_, fun hs => ?_⟩
  · intro c
    have hexec {d : Data} {x : Condition}
        (hv : serveReadEntry run ordinal (s.arrived c) = { condition := x, data := d, state := s.arrived c }) :
        exec c s = .next ((s.arrived c).responded c x d) := exec_serving rfl rfl hs rfl (modeAmong_settled hm) hv
    refine ⟨fun h => hexec ?_, fun r hr hord => ⟨fun hcount => hexec ?_, fun x i e hx hi he => hexec ?_⟩⟩
    · rcases h with h | h
      · simp only [serveReadEntry, runOperand_none h, refuse]
      · unfold serveReadEntry
        cases runOperand run with
        | none => rfl
        | some r => exact if_pos h
    · rw [← s.arrived_itemCount c] at hcount ⊢
      exact serveReadEntry_past (runOperand_some hr) (Nat.not_le.mpr hord) hcount
    · have hordinal : ¬Config.entryOrdinals ≤ ordinal.toNat := Nat.not_le.mpr hord
      simp only [serveReadEntry, runOperand_some hr, if_neg hordinal, State.arrived_run, hx, hi, Option.bind_some,
        State.arrived_entry, he, Option.map_some, State.arrived_entryReport he, taken, report]
  · intro c
    have hexec {d : Data} {x : Condition}
        (hv : serveQueryItem tag (s.arrived c) = { condition := x, data := d, state := s.arrived c }) :
        exec c s = .next ((s.arrived c).responded c x d) :=
      exec_serving rfl rfl hs (by cases p <;> rfl) (modeAmong_settled hm) hv
    refine ⟨fun h => hexec ?_, fun i e hcan hl => hexec ?_⟩
    · simp only [serveQueryItem, State.arrived_lookup, State.lookup_none.mpr h, refuse]
    · simp only [serveQueryItem, State.arrived_lookup, hl, State.arrived_entryReport (State.lookup_entry hcan.1 hl), taken,
        report]
  · intro c
    have hexec {d : Data} {x : Condition}
        (hv : serveReadStray ordinal (s.arrived c) = { condition := x, data := d, state := s.arrived c }) :
        exec c s = .next ((s.arrived c).responded c x d) := exec_serving rfl rfl hs rfl (modeAmong_settled hm) hv
    have hin (h : ordinal.toNat < 512) : ¬Config.strayOrdinals ≤ ordinal.toNat := Nat.not_le.mpr h
    refine ⟨fun h => hexec (if_pos h), fun h hnone => hexec ((if_neg (hin h)).trans ?_),
      fun y h hy => hexec ((if_neg (hin h)).trans ?_)⟩
    · simp only [State.arrived_strays, List.getElem?_eq_none hnone]
    · simp only [State.arrived_strays, hy, taken]
  · intro c
    have hexec {d : Data} {x : Condition} {t : State}
        (hv : serveReadDiscrepancy (s.arrived c) = { condition := x, data := d, state := t }) :
        exec c s = .next (t.responded c x d) := exec_serving rfl rfl hs rfl (modeAmong_settled hm) hv
    refine ⟨fun h => hexec ?_, fun d rest h => hexec ?_⟩
    · simp only [serveReadDiscrepancy, State.arrived_discrepancies, h, State.arrived_overflow]
    · simp only [serveReadDiscrepancy, State.arrived_discrepancies, h, State.arrived_overflow, taken]

/-! ## LOCATE (R12, R13) -/

section
variable {s : State} (hs : tableSorted s.runs = true) (k : ShelfKey) (o : Ordering)
include hs

theorem State.mem_runsTesting {r : RunNo} :
    r ∈ s.runsTesting k o ↔ ∃ x, s.run r = some x ∧ betweenLimits k x.lower x.upper = o := by
  simp only [State.runsTesting, List.mem_map, List.mem_filter, beq_iff_eq]
  constructor
  · rintro ⟨⟨q, x⟩, ⟨hmem, hx⟩, rfl⟩
    exact ⟨x, tableGet_of_mem runOrder hs hmem, hx⟩
  · rintro ⟨x, hr, hx⟩
    exact ⟨(r, x), ⟨tableGet_mem hr, hx⟩, rfl⟩

theorem State.runsTesting_pairwise : (s.runsTesting k o).Pairwise (· < ·) :=
  ((tableSorted_iff runOrder).mp hs).sublist (List.filter_sublist.map _)

/-- The runs of a test are named by their order and their members. -/
theorem State.runsTesting_eq {runs : List RunNo} (hruns : runs.Pairwise (· < ·))
    (hmem : ∀ r, r ∈ runs ↔ ∃ x, s.run r = some x ∧ betweenLimits k x.lower x.upper = o) : s.runsTesting k o = runs :=
  (State.runsTesting_pairwise hs k o).eq_of_mem_iff hruns fun r => (State.mem_runsTesting hs k o).trans (hmem r).symm

theorem State.precedingRun_none (h : ∀ r, ¬∃ x, s.run r = some x ∧ betweenLimits k x.lower x.upper = .gt) :
    s.precedingRun k = .noRun := by
  have hnil : s.runsTesting k .gt = [] :=
    List.eq_nil_iff_forall_not_mem.mpr fun r hr => h r ((State.mem_runsTesting hs k .gt).mp hr)
  rw [State.precedingRun, hnil]
  rfl

end

/-- The last of a rising list is its greatest member. -/
theorem getLast?_of_greatest {l : List RunNo} (hl : l.Pairwise (· < ·)) {r : RunNo} (hr : r ∈ l)
    (hmax : ∀ q ∈ l, q ≤ r) : l.getLast? = some r := by
  have hne : l ≠ [] := List.ne_nil_of_mem hr
  have hge : r ≤ l.getLast hne := (hl.imp (S := (· ≤ ·)) le_of_lt).rel_getLast hr
  rw [List.getLast?_eq_some_getLast hne]
  exact congrArg some (le_antisymm (hmax _ (List.getLast_mem hne)) hge)

theorem State.precedingRun_some {s : State} (hs : tableSorted s.runs = true) {k : ShelfKey} {r : RunNo}
    (hr : ∃ x, s.run r = some x ∧ betweenLimits k x.lower x.upper = .gt)
    (hmax : ∀ q, (∃ x, s.run q = some x ∧ betweenLimits k x.lower x.upper = .gt) → q ≤ r) :
    s.precedingRun k = .run r := by
  rw [State.precedingRun, getLast?_of_greatest (State.runsTesting_pairwise hs k .gt)
    ((State.mem_runsTesting hs k .gt).mpr hr) fun q hq => hmax q ((State.mem_runsTesting hs k .gt).mp hq)]

/-- Settles O48: the runs of the test in the order of the table, the last of those below. -/
theorem locateNamesTheRuns : Obligations.LocateNamesTheRuns := by
  intro key s hs hm hcan c
  have hexec {d : Data} {x : Condition}
      (hv : serveLocate key (s.arrived c) = { condition := x, data := d, state := s.arrived c }) :
      exec c s = .next ((s.arrived c).responded c x d) := exec_serving rfl rfl hs rfl (modeAmong_settled hm) hv
  refine ⟨fun h => hexec (by simp only [serveLocate, h, refuse]), fun k runs hk hruns hmem => ?_⟩
  intro above answer
  have hrun : (s.arrived c).runsTesting k .eq = runs := by
    rw [State.runsTesting, State.arrived_runs]
    exact State.runsTesting_eq hcan.2 k .eq hruns hmem
  have hpreceding : (s.arrived c).precedingRun k = s.precedingRun k := by
    simp only [State.precedingRun, State.runsTesting, State.arrived_runs]
  have hanswer {p : Preceding} (hp : (if runs.isEmpty then s.precedingRun k else .absent) = p) : answer p := by
    refine hexec ?_
    simp only [serveLocate, hk, hrun, hpreceding, hp, taken]
  refine ⟨fun hne => hanswer (if_neg ?_), fun hnil hnone => hanswer ((if_pos ?_).trans ?_),
    fun r hnil hr hmax => hanswer ((if_pos ?_).trans ?_)⟩
  · rwa [List.isEmpty_iff]
  · rw [hnil, List.isEmpty_nil]
  · exact State.precedingRun_none hcan.2 k hnone
  · rw [hnil, List.isEmpty_nil]
  · exact State.precedingRun_some hcan.2 hr hmax

/-! ## Records and notices (R141, R147, R148) -/

/-- The kind of a held notice. -/
def HeldNotice.kind : HeldNotice → NoticeKind
  | .diverted _ => .diverted
  | .released _ _ => .released
  | .mode _ => .mode
  | .passDone _ _ => .passDone
  | .queueFull => .queueFull
  | .strayFull => .strayFull
  | .opDone _ => .opDone

theorem HeldNotice.kind_held (n : HeldNotice) : n.kind ∈ heldOrder := by
  cases n <;> simp [HeldNotice.kind, heldOrder]

theorem HeldFlags.get_raise (h : HeldFlags) (n : HeldNotice) (k : NoticeKind) :
    (h.raise n).get? k = if k = n.kind then some n else h.get? k := by
  cases n <;> cases k <;> rfl

theorem HeldFlags.get_drop (h : HeldFlags) (k j : NoticeKind) :
    (h.drop k).get? j = if j = k then none else h.get? j := by
  cases k <;> cases j <;> rfl

/-- Settles O53: the three cases of each queue, and one flag for each held kind. -/
theorem recordsAndNoticesAreQueued : Obligations.RecordsAndNoticesAreQueued :=
  ⟨fun _ d => ⟨State.offer_room d, State.offer_fills d, State.offer_full d⟩,
    fun _ _ => ⟨LinkPort.raisePrompt_dropped, LinkPort.raisePrompt_queued⟩,
    fun q n => ⟨n.kind, n.kind_held, rfl, (q.held.get_raise n _).trans (if_pos rfl),
      fun _ hj => (q.held.get_raise n _).trans (if_neg hj)⟩,
    fun h k => ⟨(h.get_drop k _).trans (if_pos rfl), fun _ hj => (h.get_drop k _).trans (if_neg hj)⟩⟩

/-! ## The reset state (R172) -/

theorem State.reset_portsBounded : State.reset.PortsAll LinkPort.Bounded := by
  intro p
  have hport : State.reset.port p = .default := by cases p <;> rfl
  rw [hport]
  exact ⟨Nat.zero_le _, Nat.zero_le _, Nat.zero_le _, fun _ hx => absurd hx List.not_mem_nil⟩

/-- Settles O55: each invariant holds at the reset. -/
theorem resetMeetsTheInvariants : Obligations.ResetMeetsTheInvariants := by
  obtain ⟨hcanonical, hbounded⟩ := State.bounded_iff.mpr ⟨recordsFit_kept.reset, State.reset_portsBounded⟩
  obtain ⟨hclaims, hmode⟩ := controlAgrees_kept.reset
  exact ⟨hcanonical, hbounded, rfl, accounted_kept.reset, straysApart_kept.reset, hclaims, hmode,
    State.passesAgree_iff.mpr passesMarked_kept.reset.passes, State.passCountsAgree_iff.mpr countsFit_kept.reset⟩

end Sys2Proof.Machine
end

section
/-! PROOFS. The collation order, and the reading of requests from their payloads. -/
namespace Sys2Proof.Machine

/-! ## The first field that differs decides (R5 to R9) -/

/-- The letter and the value of a cutter, by which it is compared. -/
def Cutter.rank (c : Cutter) : Byte × Nat := (c.letter, digitValue 5 c.digits)

theorem compareOptionalCutters_eq {x y : Option Cutter} :
    compareOptional compareCutters x y = .eq ↔ x.map Cutter.rank = y.map Cutter.rank := by
  cases x <;> cases y <;> simp [compareOptional, compareCutters_eq, Cutter.rank]

theorem compareOptionalNumbers_eq {x y : Option Nat} : compareOptional compareNumbers x y = .eq ↔ x = y := by
  cases x <;> cases y <;> simp [compareOptional, compareNumbers_eq]

/-- Zeros that extend a digit string within its width leave its value. -/
theorem digitValue_zeros {width n : Nat} {l : List Nat} (h : l.length + n ≤ width) :
    digitValue width (l ++ List.replicate n 0) = digitValue width l := by
  have hzeros : n + (width - (l.length + n)) = width - l.length := by omega
  simp only [digitValue, List.append_assoc, List.length_append, List.length_replicate, List.replicate_append_replicate,
    hzeros]

/-- Keys whose fields compare alike compare alike. -/
theorem compareKeys_cutter1 {k a : ShelfKey} {c d : Cutter} (h : c.rank = d.rank) :
    compareKeys { k with cutter1 := some c } a = compareKeys { k with cutter1 := some d } a := by
  obtain ⟨hletter, hvalue⟩ := Prod.mk.inj h
  refine compareKeys_congr ?_ a
  simp only [compareKeys, ordering_then_eq, compareLetters_eq, compareNumbers_eq, compareOptionalCutters_eq,
    compareOptionalNumbers_eq, Option.map_some, h, and_self]

theorem compareKeys_cutter2 {k a : ShelfKey} {c d : Cutter} (h : c.rank = d.rank) :
    compareKeys { k with cutter2 := some c } a = compareKeys { k with cutter2 := some d } a := by
  refine compareKeys_congr ?_ a
  simp only [compareKeys, ordering_then_eq, compareLetters_eq, compareNumbers_eq, compareOptionalCutters_eq,
    compareOptionalNumbers_eq, Option.map_some, h, and_self]

theorem compareKeys_fraction {k a : ShelfKey} {l : List Nat} (h : digitValue 6 l = digitValue 6 k.fraction) :
    compareKeys { k with fraction := l } a = compareKeys k a := by
  refine compareKeys_congr ?_ a
  simp only [compareKeys, ordering_then_eq, compareLetters_eq, compareNumbers_eq, compareOptionalCutters_eq,
    compareOptionalNumbers_eq, h, and_self]

/-- Transitivity, with what equality at the ends says of the middle. -/
theorem compareKeys_trans {a b c : ShelfKey} (hab : compareKeys a b ≠ .gt) (hbc : compareKeys b c ≠ .gt) :
    compareKeys a c ≠ .gt ∧ (compareKeys a c = .eq → compareKeys a b = .eq ∧ compareKeys b c = .eq) := by
  have := compareKeys_transCmp
  refine ⟨Ordering.isLE_iff_ne_gt.mp (Std.TransCmp.isLE_trans (Ordering.isLE_iff_ne_gt.mpr hab)
    (Ordering.isLE_iff_ne_gt.mpr hbc)), fun hac => ?_⟩
  have hcongr : compareKeys a b = compareKeys c b := compareKeys_congr hac b
  have heq : compareKeys b c = .eq := by
    rw [hcongr, compareKeys_swap] at hab
    cases h : compareKeys b c <;> simp_all
  exact ⟨by rw [hcongr, compareKeys_swap, heq]; rfl, heq⟩

/-- Settles O50: field by field from the comparisons of the fields, and the order from its laws. -/
theorem collationIsOneOrder : Obligations.CollationIsOneOrder := by
  refine ⟨fun a b => ?_, compareKeys_swap, fun _ _ _ => compareKeys_trans, fun _ _ _ h =>
    compareKeys_fraction (digitValue_zeros h), fun _ _ c _ h => ?_⟩
  · simp only [← digitValue_eq]
    refine ⟨?_, ?_⟩
    · simp only [compareKeys, ordering_then_lt, compareLetters_lt, compareLetters_eq, compareNumbers_lt, compareNumbers_eq,
        compareOptional_lt, compareCutters_lt, compareOptionalCutters_eq, compareOptionalNumbers_eq]
      rfl
    · simp only [compareKeys, ordering_then_eq, compareLetters_eq, compareNumbers_eq, compareOptionalCutters_eq,
        compareOptionalNumbers_eq]
      rfl
  · have hrank : Cutter.rank { c with digits := c.digits ++ List.replicate _ 0 } = c.rank :=
      congrArg (Prod.mk c.letter) (digitValue_zeros h)
    exact ⟨compareKeys_cutter1 hrank, compareKeys_cutter2 hrank⟩

/-! ## Payloads of a length (R165, R166) -/

theorem split_of_length {l : List Byte} {m n : Nat} (h : l.length = m + n) :
    ∃ a b, l = a ++ b ∧ a.length = m ∧ b.length = n :=
  ⟨l.take m, l.drop m, (List.take_append_drop m l).symm, by rw [List.length_take]; omega, by
    rw [List.length_drop]; omega⟩

theorem u16Bytes_of_length {l : List Byte} (h : l.length = 2) : ∃ x, l = u16Bytes x := by
  obtain ⟨a, b, rfl⟩ := List.length_eq_two.mp h
  exact ⟨u16Of a b, (u16Bytes_of a b).symm⟩

theorem tagBytes_of_length {l : List Byte} (h : l.length = 8) : ∃ x, l = tagBytes x := by
  obtain ⟨a, l, rfl, ha, hl⟩ := split_of_length (m := 4) (n := 4) h
  obtain ⟨b0, b1, b2, b3, rfl⟩ := List.length_eq_four.mp ha
  obtain ⟨b4, b5, b6, b7, rfl⟩ := List.length_eq_four.mp hl
  exact ⟨_, (tagBytes_of b0 b1 b2 b3 b4 b5 b6 b7).symm⟩

theorem keyBytes_of_length {l : List Byte} (h : l.length = 24) : ∃ k, l = keyBytes k := by
  have htake : ∃ x, takeKey l = some x := by
    iterate 24
      obtain _ | ⟨b, l⟩ := l
      · simp at h
    exact ⟨_, rfl⟩
  obtain ⟨⟨k, rest⟩, hk⟩ := htake
  have hl := takeKey_some hk
  have hrest : rest = [] := by
    rw [hl, List.length_append, keyBytes_length] at h
    exact List.length_eq_zero_iff.mp (by omega)
  exact ⟨k, by rw [hl, hrest, List.append_nil]⟩

theorem sightings_of_length {n : Nat} {l : List Byte} (h : l.length = 10 * n) :
    ∃ xs : List Sighting, l = xs.flatMap sightingBytes ∧ xs.length = n := by
  induction n generalizing l with
  | zero => exact ⟨[], List.length_eq_zero_iff.mp h, rfl⟩
  | succ n ih =>
    obtain ⟨a, l, rfl, ha, hl⟩ := split_of_length (m := 8) (n := 10 * n + 2) (h.trans (by omega))
    obtain ⟨b, rest, rfl, hb, hrest⟩ := split_of_length (m := 2) (n := 10 * n) (hl.trans (by omega))
    obtain ⟨tag, rfl⟩ := tagBytes_of_length ha
    obtain ⟨position, rfl⟩ := u16Bytes_of_length hb
    obtain ⟨xs, rfl, hxs⟩ := ih hrest
    exact ⟨⟨tag, position⟩ :: xs, by simp [sightingBytes], by rw [List.length_cons, hxs]⟩

/-! ## Requests read from their payloads (R169) -/

theorem takeNothing_some {c d : Instr} {l : List Byte} (h : takeNothing d l = some c) : l = [] ∧ c = d := by
  unfold takeNothing at h
  split at h
  · exact ⟨rfl, (Option.some.inj h).symm⟩
  · cases h

theorem takeByte_some {make : Byte → Instr} {c : Instr} {l : List Byte} (h : takeByte make l = some c) :
    ∃ b, l = [b] ∧ c = make b := by
  unfold takeByte at h
  split at h
  · exact ⟨_, rfl, (Option.some.inj h).symm⟩
  · cases h

theorem takeU16_some {make : U16 → Instr} {c : Instr} {l : List Byte} (h : takeU16 make l = some c) :
    ∃ x, l = u16Bytes x ∧ c = make x := by
  unfold takeU16 at h
  split at h
  · exact ⟨_, (u16Bytes_of _ _).symm, (Option.some.inj h).symm⟩
  · cases h

theorem takeTag_some {make : Tag → Instr} {c : Instr} {l : List Byte} (h : takeTag make l = some c) :
    ∃ x, l = tagBytes x ∧ c = make x := by
  unfold takeTag at h
  split at h
  · exact ⟨_, (tagBytes_of _ _ _ _ _ _ _ _).symm, (Option.some.inj h).symm⟩
  · cases h

theorem takeLoadRun_some {p : Port} {c : Instr} {l : List Byte} (h : takeLoadRun p l = some c) :
    ∃ run lower upper length, c = .loadRun p run lower upper length ∧
      l = u16Bytes run ++ keyBytes lower ++ keyBytes upper ++ u16Bytes length := by
  unfold takeLoadRun at h
  split at h
  · split at h
    · rename_i lower rest hlower
      split at h
      · rename_i upper l1 l0 hupper
        refine ⟨_, lower, upper, _, (Option.some.inj h).symm, ?_⟩
        rw [takeKey_some hlower, takeKey_some hupper, u16Bytes_of, u16Bytes_of]
        simp only [List.cons_append, List.nil_append, List.append_assoc]
      · cases h
    · cases h
  · cases h

theorem takeLoadItem_some {p : Port} {c : Instr} {l : List Byte} (h : takeLoadItem p l = some c) :
    ∃ run tag key initial, c = .loadItem p run tag key initial ∧
      l = u16Bytes run ++ tagBytes tag ++ keyBytes key ++ [initial] := by
  unfold takeLoadItem at h
  split at h
  · split at h
    · rename_i key initial hkey
      refine ⟨_, _, key, initial, (Option.some.inj h).symm, ?_⟩
      rw [takeKey_some hkey, u16Bytes_of, tagBytes_of]
      simp only [List.cons_append, List.nil_append]
    · cases h
  · cases h

theorem takeLocate_some {p : Port} {c : Instr} {l : List Byte} (h : takeLocate p l = some c) :
    ∃ key, c = .locate p key ∧ l = keyBytes key := by
  unfold takeLocate at h
  split at h
  · rename_i key hkey
    exact ⟨key, (Option.some.inj h).symm, (takeKey_some hkey).trans (List.append_nil _)⟩
  · cases h

theorem takeSight_some {p : Port} {c : Instr} {l : List Byte} (h : takeSight p l = some c) :
    ∃ xs, c = .sight p xs ∧ l = xs.flatMap sightingBytes ∧ 1 ≤ xs.length ∧ xs.length ≤ 8 := by
  unfold takeSight at h
  split at h
  · rename_i xs hxs
    split_ifs at h with hn
    exact ⟨xs, (Option.some.inj h).symm, sightingsOf_some hxs, hn⟩
  · cases h

/-- The request read from a payload is well formed and has that payload. -/
theorem request_of_decodeRequest {p : Port} {k : RequestKind} {l : List Byte} {c : Instr}
    (h : decodeRequest p k l = some c) : c.request = some (p, k, l) ∧ c.wellFormed = true := by
  cases k
  case configure =>
    simp only [decodeRequest, takeConfigure] at h
    split at h
    · cases h
      simp [Instr.request, Instr.wellFormed]
    · cases h
  case readEntry =>
    simp only [decodeRequest, takeReadEntry] at h
    split at h
    · cases h
      simp [Instr.request, Instr.wellFormed]
    · cases h
  case setDivert =>
    simp only [decodeRequest, takeSetDivert] at h
    split at h
    · cases h
      exact ⟨rfl, rfl⟩
    · cases h
  case setWindow =>
    simp only [decodeRequest, takeSetWindow] at h
    split at h
    · cases h
      exact ⟨rfl, rfl⟩
    · cases h
  case loadRun =>
    obtain ⟨run, lower, upper, length, rfl, rfl⟩ := takeLoadRun_some h
    exact ⟨rfl, rfl⟩
  case loadItem =>
    obtain ⟨run, tag, key, initial, rfl, rfl⟩ := takeLoadItem_some h
    exact ⟨rfl, rfl⟩
  case locate =>
    obtain ⟨key, rfl, rfl⟩ := takeLocate_some h
    exact ⟨rfl, rfl⟩
  case sight =>
    obtain ⟨xs, rfl, rfl, h1, h8⟩ := takeSight_some h
    exact ⟨rfl, by simp [Instr.wellFormed, h1, h8]⟩
  case divert | setDirection | claim | queryRun =>
    obtain ⟨b, rfl, rfl⟩ := takeByte_some h
    exact ⟨rfl, rfl⟩
  case queryItem | loan | returnItem =>
    obtain ⟨tag, rfl, rfl⟩ := takeTag_some h
    exact ⟨rfl, rfl⟩
  case loadDone | unloadRun | closeRun | resetPasses | forceRelease | readRun | readStray | runEnd | runAbandon | setMask =>
    obtain ⟨x, rfl, rfl⟩ := takeU16_some h
    exact ⟨rfl, rfl⟩
  all_goals
    obtain ⟨rfl, rfl⟩ := takeNothing_some h
    exact ⟨rfl, rfl⟩

/-! ## Well-formed requests are read back (R169) -/

theorem takeU16_bytes (make : U16 → Instr) (x : U16) : takeU16 make (u16Bytes x) = some (make x) :=
  congrArg (fun y => some (make y)) (u16Of_bytes x)

theorem takeTag_bytes (make : Tag → Instr) (x : Tag) : takeTag make (tagBytes x) = some (make x) :=
  congrArg (fun y => some (make y)) (tagOf_bytes x)

/-- A well-formed request is read back from its payload. -/
theorem decodeRequest_request {c : Instr} {p : Port} {k : RequestKind} {payload : List Byte}
    (h : c.request = some (p, k, payload)) (hw : c.wellFormed = true) : decodeRequest p k payload = some c := by
  cases c <;> cases h
  case sight xs =>
    simp only [Instr.wellFormed, Bool.and_eq_true, decide_eq_true_eq] at hw
    simp only [decodeRequest, takeSight, sightingsOf_bytes, if_pos hw]
  case configure => simp [decodeRequest, takeConfigure, u16Bytes]
  case readEntry => simp [decodeRequest, takeReadEntry, u16Bytes]
  case loadRun => simp [decodeRequest, takeLoadRun, u16Bytes]
  case loadItem => simp [decodeRequest, takeLoadItem, u16Bytes, tagBytes]
  case locate key =>
    have hkey := takeKey_keyBytes key []
    rw [List.append_nil] at hkey
    simp only [decodeRequest, takeLocate, hkey]
  case queryItem | loan | returnItem => exact takeTag_bytes _ _
  case loadDone | unloadRun | closeRun | resetPasses | forceRelease | readRun | readStray | runEnd | runAbandon | setMask =>
    exact takeU16_bytes _ _
  all_goals rfl

theorem lengthOk_sight {n : Nat} (h : RequestKind.sight.lengthOk n = true) : ∃ m, n = 10 * m ∧ 1 ≤ m ∧ m ≤ 8 := by
  have hn : n ∈ [10, 20, 30, 40, 50, 60, 70, 80] := List.contains_iff_mem.mp h
  refine ⟨n / 10, ?_⟩
  simp only [List.mem_cons, List.not_mem_nil, or_false] at hn
  omega

/-- A payload of the length of its kind is read. -/
theorem decodeRequest_of_length (p : Port) {k : RequestKind} {l : List Byte} (h : k.lengthOk l.length = true) :
    ∃ c, decodeRequest p k l = some c := by
  cases k
  case sight =>
    obtain ⟨n, hn, h1, h8⟩ := lengthOk_sight h
    obtain ⟨xs, rfl, rfl⟩ := sightings_of_length hn
    exact ⟨.sight p xs, decodeRequest_request rfl (by simp [Instr.wellFormed, h1, h8])⟩
  all_goals replace h := beq_iff_eq.mp h
  case configure =>
    obtain ⟨a, e, rfl, ha, he⟩ := split_of_length (m := 8) (n := 2) h
    obtain ⟨a, d, rfl, ha, hd⟩ := split_of_length (m := 6) (n := 2) ha
    obtain ⟨a, c, rfl, ha, hc⟩ := split_of_length (m := 4) (n := 2) ha
    obtain ⟨a, b, rfl, ha, hb⟩ := split_of_length (m := 2) (n := 2) ha
    obtain ⟨a, rfl⟩ := u16Bytes_of_length ha
    obtain ⟨b, rfl⟩ := u16Bytes_of_length hb
    obtain ⟨c, rfl⟩ := u16Bytes_of_length hc
    obtain ⟨d, rfl⟩ := u16Bytes_of_length hd
    obtain ⟨e, rfl⟩ := u16Bytes_of_length he
    exact ⟨.configure p a b c d e, decodeRequest_request rfl rfl⟩
  case loadRun =>
    obtain ⟨a, length, rfl, ha, hlength⟩ := split_of_length (m := 50) (n := 2) h
    obtain ⟨a, upper, rfl, ha, hupper⟩ := split_of_length (m := 26) (n := 24) ha
    obtain ⟨run, lower, rfl, hrun, hlower⟩ := split_of_length (m := 2) (n := 24) ha
    obtain ⟨run, rfl⟩ := u16Bytes_of_length hrun
    obtain ⟨lower, rfl⟩ := keyBytes_of_length hlower
    obtain ⟨upper, rfl⟩ := keyBytes_of_length hupper
    obtain ⟨length, rfl⟩ := u16Bytes_of_length hlength
    exact ⟨.loadRun p run lower upper length, decodeRequest_request rfl rfl⟩
  case loadItem =>
    obtain ⟨a, initial, rfl, ha, hinitial⟩ := split_of_length (m := 34) (n := 1) h
    obtain ⟨a, key, rfl, ha, hkey⟩ := split_of_length (m := 10) (n := 24) ha
    obtain ⟨run, tag, rfl, hrun, htag⟩ := split_of_length (m := 2) (n := 8) ha
    obtain ⟨run, rfl⟩ := u16Bytes_of_length hrun
    obtain ⟨tag, rfl⟩ := tagBytes_of_length htag
    obtain ⟨key, rfl⟩ := keyBytes_of_length hkey
    obtain ⟨initial, rfl⟩ := List.length_eq_one_iff.mp hinitial
    exact ⟨.loadItem p run tag key initial, decodeRequest_request rfl rfl⟩
  case readEntry =>
    obtain ⟨run, ordinal, rfl, hrun, hordinal⟩ := split_of_length (m := 2) (n := 1) h
    obtain ⟨run, rfl⟩ := u16Bytes_of_length hrun
    obtain ⟨ordinal, rfl⟩ := List.length_eq_one_iff.mp hordinal
    exact ⟨.readEntry p run ordinal, decodeRequest_request rfl rfl⟩
  case locate =>
    obtain ⟨key, rfl⟩ := keyBytes_of_length h
    exact ⟨.locate p key, decodeRequest_request rfl rfl⟩
  case setDivert =>
    obtain ⟨w, a, b, d, rfl⟩ := List.length_eq_four.mp h
    exact ⟨_, rfl⟩
  case setWindow =>
    obtain ⟨a, b, rfl⟩ := List.length_eq_two.mp h
    exact ⟨_, rfl⟩
  case divert | setDirection | claim | queryRun =>
    obtain ⟨b, rfl⟩ := List.length_eq_one_iff.mp h
    exact ⟨_, rfl⟩
  case queryItem | loan | returnItem =>
    obtain ⟨tag, rfl⟩ := tagBytes_of_length h
    exact ⟨_, takeTag_bytes _ tag⟩
  case loadDone | unloadRun | closeRun | resetPasses | forceRelease | readRun | readStray | runEnd | runAbandon | setMask =>
    obtain ⟨x, rfl⟩ := u16Bytes_of_length h
    exact ⟨_, takeU16_bytes _ x⟩
  all_goals
    obtain rfl := List.length_eq_zero_iff.mp h
    exact ⟨_, rfl⟩

/-- Settles O54: reading undoes writing, and a payload is read exactly when it is some request's. -/
theorem requestsAndPayloadsAgree : Obligations.RequestsAndPayloadsAgree := by
  refine ⟨fun c p k payload hc hw => ?_, fun _ _ _ _ h => request_of_decodeRequest h, fun p k payload => ?_⟩
  · have hlen := Instr.request_lengthOk hw hc
    have hread := decodeRequest_request hc hw
    refine ⟨hlen, hread, ?_, Frame.make_accepted hlen, frameOf_bytes _⟩
    rw [decodeFrame, RequestKind.ofByte_code, Option.bind_some, hread]
  · rw [Bool.eq_iff_iff, Option.isSome_iff_exists]
    refine ⟨fun ⟨c, h⟩ => ?_, decodeRequest_of_length p⟩
    obtain ⟨hc, hw⟩ := request_of_decodeRequest h
    exact Instr.request_lengthOk hw hc

end Sys2Proof.Machine
end

section
/-! PROOFS. Carried keys: their 24 bytes, which are well formed, what they read as, and held keys read back. -/
namespace Sys2Proof.Machine

/-! ## The 24 bytes (R165, R166) -/

theorem u16Of_toNat (hi lo : Byte) : (u16Of hi lo).toNat = 256 * hi.toNat + lo.toNat := by
  rw [u16Of, BitVec.toNat_append, ← Nat.shiftLeft_add_eq_or_of_lt lo.isLt, Nat.shiftLeft_eq, Nat.mul_comm]

theorem digitsOf_toNat (x y z : Byte) : digitList (digitsOf x y z) =
    [x.toNat / 16, x.toNat % 16, y.toNat / 16, y.toNat % 16, z.toNat / 16, z.toNat % 16] := by
  have hhigh (b : Byte) : (b.extractLsb' 4 4).toNat = b.toNat / 16 := by
    have := b.isLt
    rw [BitVec.extractLsb'_toNat, Nat.shiftRight_eq_div_pow]
    omega
  have hlow (b : Byte) : (b.extractLsb' 0 4).toNat = b.toNat % 16 := by
    rw [BitVec.extractLsb'_toNat, Nat.shiftRight_zero]
  simp only [digitList, digitsOf, hhigh, hlow]

/-! ## What a well-formed key reads as (R2, R3) -/

theorem isLetter_iff {b : Byte} : isLetter b = true ↔ 65 ≤ b.toNat ∧ b.toNat ≤ 90 := by
  simp only [isLetter, Bool.and_eq_true, decide_eq_true_eq]

theorem isLetter_ne_zero {b : Byte} (h : isLetter b = true) : b ≠ 0 := by
  rintro rfl
  exact absurd h (by decide)

theorem readDigits_some {n : Nat} {d : Digits} {l : List Nat} :
    readDigits n d = some l ↔ (∀ x ∈ (digitList d).take n, x ≤ 9) ∧ l = (digitList d).take n := by
  simp only [readDigits, List.all_eq_true, decide_eq_true_eq]
  split_ifs with h
  · exact ⟨fun hl => ⟨h, (Option.some.inj hl).symm⟩, fun hl => congrArg some hl.2.symm⟩
  · exact ⟨nofun, fun hl => absurd hl.1 h⟩

theorem readLetters_iff {k : CarriedKey} {l : List Byte} : readLetters k = some l ↔
    [k.letter1, k.letter2, k.letter3].takeWhile (· != 0) = l ∧ l ≠ [] ∧ l.all isLetter = true := by
  simp only [readLetters, Bool.and_eq_true, bne_iff_ne]
  split_ifs with h
  · exact ⟨fun hl => Option.some.inj hl ▸ ⟨rfl, h⟩, fun hl => congrArg some hl.1⟩
  · exact ⟨nofun, fun hl => absurd (hl.1 ▸ hl.2) h⟩

/-- The letters are those before the first zero position. -/
theorem readLetters_some {k : CarriedKey} {l : List Byte} : readLetters k = some l ↔
    isLetter k.letter1 = true ∧
      (k.letter2 = 0 ∧ l = [k.letter1] ∨ isLetter k.letter2 = true ∧
        (k.letter3 = 0 ∧ l = [k.letter1, k.letter2] ∨
          isLetter k.letter3 = true ∧ l = [k.letter1, k.letter2, k.letter3])) := by
  have hzero : isLetter 0#8 = false := rfl
  rw [readLetters_iff]
  by_cases h1 : k.letter1 = 0#8
  · have hnone : [k.letter1, k.letter2, k.letter3].takeWhile (· != 0) = [] := by simp [h1]
    rw [hnone, h1, hzero]
    exact ⟨fun ⟨hl, hne, _⟩ => absurd hl.symm hne, fun h => absurd h.1 Bool.false_ne_true⟩
  by_cases h2 : k.letter2 = 0#8
  · have hone : [k.letter1, k.letter2, k.letter3].takeWhile (· != 0) = [k.letter1] := by simp [h1, h2]
    rw [hone, h2, hzero]
    constructor
    · rintro ⟨rfl, -, hl⟩
      exact ⟨by simpa using hl, .inl ⟨rfl, rfl⟩⟩
    · rintro ⟨hl, ⟨-, rfl⟩ | ⟨h, -⟩⟩
      · exact ⟨rfl, by simp, by simpa using hl⟩
      · cases h
  by_cases h3 : k.letter3 = 0#8
  · have htwo : [k.letter1, k.letter2, k.letter3].takeWhile (· != 0) = [k.letter1, k.letter2] := by simp [h1, h2, h3]
    rw [htwo, h3, hzero]
    constructor
    · rintro ⟨rfl, -, hl⟩
      obtain ⟨hl1, hl2⟩ : isLetter k.letter1 = true ∧ isLetter k.letter2 = true := by simpa using hl
      exact ⟨hl1, .inr ⟨hl2, .inl ⟨rfl, rfl⟩⟩⟩
    · rintro ⟨hl1, ⟨h, -⟩ | ⟨hl2, ⟨-, rfl⟩ | ⟨h, -⟩⟩⟩
      · exact absurd h h2
      · exact ⟨rfl, by simp, by simp [hl1, hl2]⟩
      · cases h
  · have hthree : [k.letter1, k.letter2, k.letter3].takeWhile (· != 0) = [k.letter1, k.letter2, k.letter3] := by
      simp [h1, h2, h3]
    rw [hthree]
    constructor
    · rintro ⟨rfl, -, hl⟩
      obtain ⟨hl1, hl2, hl3⟩ : isLetter k.letter1 = true ∧ isLetter k.letter2 = true ∧ isLetter k.letter3 = true := by
        simpa using hl
      exact ⟨hl1, .inr ⟨hl2, .inr ⟨hl3, rfl⟩⟩⟩
    · rintro ⟨hl1, ⟨h, -⟩ | ⟨hl2, ⟨h, -⟩ | ⟨hl3, rfl⟩⟩⟩
      · exact absurd h h2
      · exact absurd h h3
      · exact ⟨rfl, by simp, by simp [hl1, hl2, hl3]⟩

theorem readCutter_some {c : CarriedCutter} {x : Option Cutter} : readCutter c = some x ↔
    c.letter = 0 ∧ c.count = 0 ∧ x = none ∨
      isLetter c.letter = true ∧ 1 ≤ c.count.toNat ∧ c.count.toNat ≤ 5 ∧
        (∀ y ∈ (digitList c.digits).take c.count.toNat, y ≤ 9) ∧
        x = some { letter := c.letter, digits := (digitList c.digits).take c.count.toNat } := by
  have hcount : c.count = 0 ↔ c.count.toNat = 0 := BitVec.toNat_eq
  unfold readCutter
  by_cases hl : c.letter = 0
  · have hno : isLetter c.letter = false := by rw [hl]; rfl
    rw [if_pos hl, hno]
    split_ifs with hc
    · exact ⟨fun h => .inl ⟨hl, hc, (Option.some.inj h).symm⟩, fun h => by
        obtain ⟨-, -, rfl⟩ | ⟨h, -⟩ := h
        · rfl
        · cases h⟩
    · exact ⟨nofun, fun h => by
        obtain ⟨-, h, -⟩ | ⟨h, -⟩ := h
        · exact absurd h hc
        · cases h⟩
  · rw [if_neg hl]
    simp only [Bool.or_eq_true, Bool.not_eq_true', decide_eq_true_eq, hcount]
    split_ifs with hbad
    · refine ⟨nofun, fun h => ?_⟩
      obtain ⟨h, -⟩ | ⟨hletter, h1, h5, -⟩ := h
      · exact absurd h hl
      · rw [hletter] at hbad
        simp only [Bool.true_eq_false, false_or] at hbad
        omega
    · rw [not_or, not_or, Bool.not_eq_false] at hbad
      obtain ⟨⟨hletter, h0⟩, h5⟩ := hbad
      rw [Option.map_eq_some_iff]
      constructor
      · rintro ⟨l, hd, rfl⟩
        obtain ⟨hdec, rfl⟩ := readDigits_some.mp hd
        exact .inr ⟨hletter, by omega, by omega, hdec, rfl⟩
      · rintro (⟨h, -⟩ | ⟨-, -, -, hdec, rfl⟩)
        · exact absurd h hl
        · exact ⟨_, readDigits_some.mpr ⟨hdec, rfl⟩, rfl⟩

theorem readKey_some {k : CarriedKey} {h : ShelfKey} : readKey k = some h ↔
    (k.classInteger.toNat ≤ 9999 ∧ k.fractionCount.toNat ≤ 6 ∧ k.year.toNat ≤ 9999 ∧ k.volume.toNat ≤ 999) ∧
      readLetters k = some h.letters ∧ h.classInteger = k.classInteger.toNat ∧
      readDigits k.fractionCount.toNat k.fraction = some h.fraction ∧
      readCutter k.cutter1 = some h.cutter1 ∧ readCutter k.cutter2 = some h.cutter2 ∧
      (h.cutter1 = none → h.cutter2 = none) ∧
      h.year = readOptional k.year ∧ h.volume = readOptional k.volume := by
  unfold readKey
  split_ifs with hbad
  · exact ⟨nofun, fun ⟨hbounds, _⟩ => by omega⟩
  have hbounds : k.classInteger.toNat ≤ 9999 ∧ k.fractionCount.toNat ≤ 6 ∧ k.year.toNat ≤ 9999 ∧
      k.volume.toNat ≤ 999 := by omega
  split
  · rename_i letters fraction cutter1 cutter2 hletters hfraction hcutter1 hcutter2
    rw [hletters, hfraction, hcutter1, hcutter2]
    split_ifs with hcutters
    · refine ⟨nofun, fun ⟨_, _, _, _, h1, h2, himp, _⟩ => ?_⟩
      rw [Option.some.injEq] at h1 h2
      exact absurd (h2.trans (himp (h1.symm.trans hcutters.1))) hcutters.2
    · rw [not_and, not_not] at hcutters
      constructor
      · rintro hk
        obtain rfl := Option.some.inj hk
        exact ⟨hbounds, rfl, rfl, rfl, rfl, rfl, hcutters, rfl, rfl⟩
      · rintro ⟨-, h1, h2, h3, h4, h5, -, h6, h7⟩
        simp only [Option.some.injEq] at h1 h3 h4 h5
        rw [h1, h3, h4, h5, ← h2, ← h6, ← h7]
  · rename_i hnot
    exact ⟨nofun, fun ⟨_, h1, _, h2, h3, h4, _⟩ => absurd h4 (hnot _ _ _ _ h1 h2 h3)⟩

/-! ## Which keys are well formed (R3) -/

/-- The digit positions, in order. -/
def digitPositions (d : Digits) : List (BitVec 4) := [d.d1, d.d2, d.d3, d.d4, d.d5, d.d6]

theorem digitList_take (d : Digits) (n : Nat) : (digitList d).take n = ((digitPositions d).take n).map (·.toNat) :=
  (List.map_take (f := BitVec.toNat) (l := digitPositions d) (i := n)).symm

theorem decimal_iff {d : Digits} {n : Nat} :
    (∀ y ∈ (digitList d).take n, y ≤ 9) ↔ ∀ x ∈ (digitPositions d).take n, x.toNat ≤ 9 := by
  rw [digitList_take, List.forall_mem_map]

theorem readLetters_exists {k : CarriedKey} : (∃ l, readLetters k = some l) ↔ isLetter k.letter1 = true ∧
    (k.letter2 = 0 ∨ isLetter k.letter2 = true ∧ (k.letter3 = 0 ∨ isLetter k.letter3 = true)) := by
  simp only [readLetters_some, exists_and_left, exists_or, exists_eq, and_true]

theorem readCutter_absent {c : CarriedCutter} : readCutter c = some none ↔ c.letter = 0 ∧ c.count = 0 := by
  simp [readCutter_some]

theorem readCutter_present {c : CarriedCutter} : (∃ x, readCutter c = some (some x)) ↔
    isLetter c.letter = true ∧ 1 ≤ c.count.toNat ∧ c.count.toNat ≤ 5 ∧
      ∀ x ∈ (digitPositions c.digits).take c.count.toNat, x.toNat ≤ 9 := by
  simp [readCutter_some, decimal_iff]

theorem readCutter_pair {c d : CarriedCutter} :
    (∃ x y, readCutter c = some x ∧ readCutter d = some y ∧ (x = none → y = none)) ↔
      readCutter c = some none ∧ readCutter d = some none ∨
        (∃ x, readCutter c = some (some x)) ∧ (readCutter d = some none ∨ ∃ y, readCutter d = some (some y)) := by
  constructor
  · rintro ⟨_ | x, y, hx, hy, himp⟩
    · exact .inl ⟨hx, himp rfl ▸ hy⟩
    · cases y with
      | none => exact .inr ⟨⟨x, hx⟩, .inl hy⟩
      | some y => exact .inr ⟨⟨x, hx⟩, .inr ⟨y, hy⟩⟩
  · rintro (⟨hx, hy⟩ | ⟨⟨x, hx⟩, hy | ⟨y, hy⟩⟩)
    · exact ⟨none, none, hx, hy, fun _ => rfl⟩
    · exact ⟨some x, none, hx, hy, nofun⟩
    · exact ⟨some x, some y, hx, hy, nofun⟩

/-- A key is well formed exactly when each of its fields is. -/
theorem readKey_isSome {k : CarriedKey} : (readKey k).isSome = true ↔
    (∃ l, readLetters k = some l) ∧ k.classInteger.toNat ≤ 9999 ∧ k.fractionCount.toNat ≤ 6 ∧
      (∀ x ∈ (digitPositions k.fraction).take k.fractionCount.toNat, x.toNat ≤ 9) ∧
      (∃ x y, readCutter k.cutter1 = some x ∧ readCutter k.cutter2 = some y ∧ (x = none → y = none)) ∧
      k.year.toNat ≤ 9999 ∧ k.volume.toNat ≤ 999 := by
  rw [Option.isSome_iff_exists, ← decimal_iff]
  constructor
  · rintro ⟨h, hk⟩
    obtain ⟨⟨hclass, hcount, hyear, hvolume⟩, hletters, -, hfraction, hcutter1, hcutter2, himp, -⟩ := readKey_some.mp hk
    exact ⟨⟨_, hletters⟩, hclass, hcount, (readDigits_some.mp hfraction).1, ⟨_, _, hcutter1, hcutter2, himp⟩, hyear, hvolume⟩
  · rintro ⟨⟨l, hletters⟩, hclass, hcount, hfraction, ⟨x, y, hx, hy, himp⟩, hyear, hvolume⟩
    exact ⟨{ letters := l, classInteger := k.classInteger.toNat, fraction := _, cutter1 := x, cutter2 := y,
             year := readOptional k.year, volume := readOptional k.volume },
      readKey_some.mpr ⟨⟨hclass, hcount, hyear, hvolume⟩, hletters, rfl, readDigits_some.mpr ⟨hfraction, rfl⟩, hx, hy, himp,
        rfl, rfl⟩⟩

/-! ## Held keys in their bytes (R2, R166) -/

/-- Held digits in their positions. -/
def heldDigits (l : List Nat) : Digits where
  d1 := BitVec.ofNat 4 (l.getD 0 0)
  d2 := BitVec.ofNat 4 (l.getD 1 0)
  d3 := BitVec.ofNat 4 (l.getD 2 0)
  d4 := BitVec.ofNat 4 (l.getD 3 0)
  d5 := BitVec.ofNat 4 (l.getD 4 0)
  d6 := BitVec.ofNat 4 (l.getD 5 0)

/-- A held cutter as it is carried. -/
def heldCutter : Option Cutter → CarriedCutter
  | none => { letter := 0, count := 0, digits := heldDigits [] }
  | some c => { letter := c.letter, count := BitVec.ofNat 8 c.digits.length, digits := heldDigits c.digits }

/-- A held key as it is carried. -/
def ShelfKey.carried (h : ShelfKey) : CarriedKey where
  letter1 := h.letters.getD 0 0
  letter2 := h.letters.getD 1 0
  letter3 := h.letters.getD 2 0
  classInteger := BitVec.ofNat 16 h.classInteger
  fractionCount := BitVec.ofNat 8 h.fraction.length
  fraction := heldDigits h.fraction
  cutter1 := heldCutter h.cutter1
  cutter2 := heldCutter h.cutter2
  year := BitVec.ofNat 16 (h.year.getD 0)
  volume := BitVec.ofNat 16 (h.volume.getD 0)
  spare := 0

theorem heldCutterBytes_eq (x : Option Cutter) : heldCutterBytes x = cutterBytes (heldCutter x) := by
  cases x <;> rfl

theorem heldKeyBytes_eq (h : ShelfKey) : heldKeyBytes h = keyBytes h.carried := by
  rw [heldKeyBytes, heldCutterBytes_eq, heldCutterBytes_eq]
  rfl

/-- Held digits are read back from their positions. -/
theorem readDigits_held {l : List Nat} (hlen : l.length ≤ 6) (hdec : ∀ x ∈ l, x ≤ 9) :
    readDigits l.length (heldDigits l) = some l := by
  have hlist : digitList (heldDigits l) = (List.range 6).map fun i => l.getD i 0 % 16 := by
    simp [digitList, heldDigits, List.range_succ]
  have htake : (digitList (heldDigits l)).take l.length = l := by
    rw [hlist]
    refine List.ext_getElem (by simpa using hlen) fun i hi hil => ?_
    have hdigit := hdec _ (List.getElem_mem hil)
    simp only [List.getElem_take, List.getElem_map, List.getElem_range, List.getD_eq_getElem _ _ hil]
    omega
  exact readDigits_some.mpr ⟨htake.symm ▸ hdec, htake.symm⟩

theorem readDigits_length {n : Nat} {d : Digits} {l : List Nat} (h : readDigits n d = some l) (hn : n ≤ 6) :
    l.length = n := by
  rw [(readDigits_some.mp h).2, List.length_take]
  exact Nat.min_eq_left hn

theorem readDigits_decimal {n : Nat} {d : Digits} {l : List Nat} (h : readDigits n d = some l) : ∀ x ∈ l, x ≤ 9 := by
  obtain ⟨hdec, rfl⟩ := readDigits_some.mp h
  exact hdec

/-- A cutter that was read is read back. -/
theorem readCutter_held {c : CarriedCutter} {x : Option Cutter} (h : readCutter c = some x) :
    readCutter (heldCutter x) = some x := by
  obtain ⟨-, -, rfl⟩ | ⟨hletter, h1, h5, hdec, rfl⟩ := readCutter_some.mp h
  · rfl
  have hlen : ((digitList c.digits).take c.count.toNat).length = c.count.toNat := by
    rw [List.length_take]
    exact Nat.min_eq_left (by simp only [digitList, List.length_cons, List.length_nil]; omega)
  have hcount : BitVec.ofNat 8 ((digitList c.digits).take c.count.toNat).length = c.count := by
    rw [hlen, BitVec.ofNat_toNat, BitVec.setWidth_eq]
  have hread := readDigits_some.mp (readDigits_held (by omega) hdec)
  rw [hlen] at hread
  simp only [readCutter_some, heldCutter, hcount]
  exact .inr ⟨hletter, h1, h5, hread.1, by rw [← hread.2]⟩

theorem readOptional_held (x : U16) : BitVec.ofNat 16 ((readOptional x).getD 0) = x := by
  unfold readOptional
  split_ifs with h
  · exact h.symm
  · rw [Option.getD_some, BitVec.ofNat_toNat, BitVec.setWidth_eq]

/-- Letters that were read are read back. -/
theorem readLetters_held {k : CarriedKey} {h : ShelfKey} (hl : readLetters k = some h.letters) :
    readLetters h.carried = some h.letters := by
  refine readLetters_some.mpr ?_
  obtain ⟨h1, ⟨-, hl⟩ | ⟨h2, ⟨-, hl⟩ | ⟨h3, hl⟩⟩⟩ := readLetters_some.mp hl <;>
    simp only [ShelfKey.carried, hl]
  · exact ⟨h1, .inl ⟨rfl, rfl⟩⟩
  · exact ⟨h1, .inr ⟨h2, .inl ⟨rfl, rfl⟩⟩⟩
  · exact ⟨h1, .inr ⟨h2, .inr ⟨h3, rfl⟩⟩⟩

/-- A held key is read back from the key that carries it. -/
theorem readKey_carried {k : CarriedKey} {h : ShelfKey} (hk : readKey k = some h) : readKey h.carried = some h := by
  obtain ⟨⟨hclass, hcount, hyear, hvolume⟩, hletters, hint, hfraction, hcutter1, hcutter2, himp, hy, hv⟩ :=
    readKey_some.mp hk
  have hlen : h.fraction.length = k.fractionCount.toNat := readDigits_length hfraction hcount
  have hclass' : BitVec.ofNat 16 h.classInteger = k.classInteger := by
    rw [hint, BitVec.ofNat_toNat, BitVec.setWidth_eq]
  have hcount' : BitVec.ofNat 8 h.fraction.length = k.fractionCount := by
    rw [hlen, BitVec.ofNat_toNat, BitVec.setWidth_eq]
  have hyear' : BitVec.ofNat 16 (h.year.getD 0) = k.year := by rw [hy, readOptional_held]
  have hvolume' : BitVec.ofNat 16 (h.volume.getD 0) = k.volume := by rw [hv, readOptional_held]
  refine readKey_some.mpr ?_
  refine ⟨?_, readLetters_held hletters, ?_, ?_, readCutter_held hcutter1, readCutter_held hcutter2, himp, ?_, ?_⟩
  · simp only [ShelfKey.carried, hclass', hcount', hyear', hvolume']
    exact ⟨hclass, hcount, hyear, hvolume⟩
  · exact hint.trans (congrArg BitVec.toNat hclass'.symm)
  · have hread := readDigits_held (hlen.trans_le hcount) (readDigits_decimal hfraction)
    rw [hlen] at hread
    simp only [ShelfKey.carried, hcount', hread]
  · exact hy.trans (congrArg readOptional hyear'.symm)
  · exact hv.trans (congrArg readOptional hvolume'.symm)

/-! ## The fields of a key that is read (R2) -/

theorem readCutter_fields {c : CarriedCutter} {x : Option Cutter} (h : readCutter c = some x) :
    (c.letter = 0 → x = none) ∧
      (c.letter ≠ 0 →
        x = some { letter := c.letter, digits := ((digitPositions c.digits).take c.count.toNat).map (·.toNat) }) := by
  rw [← digitList_take]
  obtain ⟨hzero, -, hx⟩ | ⟨hletter, -, -, -, hx⟩ := readCutter_some.mp h
  · exact ⟨fun _ => hx, fun hne => absurd hzero hne⟩
  · exact ⟨fun hzero => absurd hzero (isLetter_ne_zero hletter), fun _ => hx⟩

theorem readOptional_fields {n : U16} : (n = 0 → readOptional n = none) ∧ (n ≠ 0 → readOptional n = some n.toNat) :=
  ⟨fun h => if_pos h, fun h => if_neg h⟩

theorem readLetters_fields {k : CarriedKey} {l : List Byte} (h : readLetters k = some l) :
    (k.letter2 = 0 → l = [k.letter1]) ∧ (k.letter2 ≠ 0 → k.letter3 = 0 → l = [k.letter1, k.letter2]) ∧
      (k.letter2 ≠ 0 → k.letter3 ≠ 0 → l = [k.letter1, k.letter2, k.letter3]) := by
  obtain ⟨-, ⟨h2, hl⟩ | ⟨h2, ⟨h3, hl⟩ | ⟨h3, hl⟩⟩⟩ := readLetters_some.mp h
  · exact ⟨fun _ => hl, fun hne => absurd h2 hne, fun hne => absurd h2 hne⟩
  · exact ⟨fun hz => absurd hz (isLetter_ne_zero h2), fun _ _ => hl, fun _ hne => absurd h3 hne⟩
  · exact ⟨fun hz => absurd hz (isLetter_ne_zero h2), fun _ hz => absurd hz (isLetter_ne_zero h3), fun _ _ => hl⟩

/-- Settles O49: the bytes position by position, the fields each by its reading, and held keys by their carried form. -/
theorem carriedKeysAreReadAsWritten : Obligations.CarriedKeysAreReadAsWritten := by
  refine ⟨fun b0 b1 b2 b3 b4 b5 b6 b7 b8 b9 b10 b11 b12 b13 b14 b15 b16 b17 b18 b19 b20 b21 b22 b23 rest => ?_,
    fun k => ?_, fun k h hk => ?_, fun k h hk => ⟨h.carried, ?_, readKey_carried hk⟩⟩
  · exact ⟨_, rfl, rfl, rfl, rfl, u16Of_toNat b3 b4, rfl, digitsOf_toNat b6 b7 b8, rfl, rfl, digitsOf_toNat b11 b12 b13,
      rfl, rfl, digitsOf_toNat b16 b17 b18, u16Of_toNat b19 b20, u16Of_toNat b21 b22, rfl⟩
  · intro letter decimal absent present
    rw [readKey_isSome, readLetters_exists, readCutter_pair, readCutter_absent, readCutter_absent, readCutter_present,
      readCutter_present, isLetter_iff, isLetter_iff, isLetter_iff, isLetter_iff, isLetter_iff, and_assoc]
    rfl
  · obtain ⟨-, hletters, hint, hfraction, hcutter1, hcutter2, -, hyear, hvolume⟩ := readKey_some.mp hk
    obtain ⟨hone, htwo, hthree⟩ := readLetters_fields hletters
    refine ⟨hone, htwo, hthree, hint, (readDigits_some.mp hfraction).2.trans (digitList_take _ _), ?_, ?_, ?_, ?_⟩
    · exact readCutter_fields hcutter1
    · exact readCutter_fields hcutter2
    · rw [hyear]
      exact readOptional_fields
    · rw [hvolume]
      exact readOptional_fields
  · have hread := takeKey_keyBytes h.carried []
    rwa [List.append_nil, ← heldKeyBytes_eq] at hread

end Sys2Proof.Machine
end

section
/-! PROOFS. Frames of whole commands: what changes the mode, the configuration, the clock and the serial, and what a
wand's request leaves of the others. -/
namespace Sys2Proof.Machine

/-! ## A request as its serving -/

theorem State.updatePort_id (s : State) (p : Port) : s.updatePort p id = s := by
  simp [State.updatePort]

theorem State.receive_updatePort (s : State) (p : Port) (l : List Byte) : ∃ f, s.receive p l = s.updatePort p f := by
  unfold State.receive
  split_ifs
  · exact ⟨_, rfl⟩
  · exact ⟨id, (s.updatePort_id p).symm⟩

/-- Handling serves the part where the frame, the role and the mode allow the request, and answers. -/
theorem State.handle_served (s : State) (p : Port) (k : RequestKind) (f : Frame) (serve : State → Served) :
    ∃ g t, s.handle p k f serve = t.updatePort p g ∧
      (t = s ∨ k.inRole p.role = true ∧ k.modeTest s.mode = none ∧ t = (serve s).state) := by
  unfold State.handle
  split
  · exact ⟨_, s, rfl, .inl rfl⟩
  dsimp only
  split_ifs with hrole
  · split
    · exact ⟨_, s, rfl, .inl rfl⟩
    · exact ⟨_, (serve s).state, rfl, .inr ⟨hrole, ‹_›, rfl⟩⟩
  · exact ⟨_, s, rfl, .inl rfl⟩

/-- A request is its serving, at most, between changes of its own port. -/
theorem request_served {c : Instr} {p : Port} {k : RequestKind} {payload : List Byte}
    (hc : c.request = some (p, k, payload)) {s : State} (hlow : s.pins.resetLow = false) (serve : State → Served) :
    ∃ f g t, request c serve s = (t.updatePort p g).kick ∧
      (t = s.settle.updatePort p f ∨ k.inRole p.role = true ∧ k.modeTest s.settle.mode = none ∧
        t = (serve (s.settle.updatePort p f)).state) := by
  simp only [request, hc, hlow, Bool.false_eq_true, if_false]
  have harrive : ∃ f, (if (s.settle.port p).next? = some (Frame.make k.code payload) then s.settle
      else s.settle.receiveFrame p (Frame.make k.code payload).bytes) = s.settle.updatePort p f := by
    split_ifs
    · exact ⟨id, (s.settle.updatePort_id p).symm⟩
    · exact s.settle.receive_updatePort p _
  obtain ⟨f, hf⟩ := harrive
  rw [hf]
  split_ifs
  · obtain ⟨g, t, ht, hserved⟩ := (s.settle.updatePort p f).handle_served p k (Frame.make k.code payload) serve
    exact ⟨f, g, t, congrArg State.kick ht, hserved⟩
  · exact ⟨f, id, _, congrArg State.kick (State.updatePort_id _ p).symm, .inl rfl⟩

/-! ## Control state (R152, R155, R156, R43, R161) -/

/-- The mode, the configuration, the clock, the pass serial and whether a device reset is awaited. -/
def State.control (s : State) : Mode × Config.Params × U32 × U32 × Bool :=
  (s.mode, s.config, s.clock, s.passSerial, s.resetScheduled)

/-- The change of the control state that a command may make. -/
def ControlStep (c : Instr) (s t : State) : Prop :=
  (t.mode = s.mode ∨ modeChange c s.mode t.mode) ∧
  (t.config = s.config ∨ ∃ p a b d e f, c = .configure p a b d e f ∧ s.mode = .halted) ∧
  (t.clock = s.clock ∨
    (c = .sectionClockAdvance ∧ t.clock = s.clock + 1 ∧ (s.mode = .counting ∨ s.mode = .paused)) ∨
    ∃ p, c = .wipe p ∧ t.clock = 0 ∧ t.mode = .wiping) ∧
  (t.passSerial = s.passSerial ∨
    (((∃ p i, c = .claim p i) ∨ ∃ p, c = .claimNext p) ∧ s.mode = .counting ∧
      t.passSerial.toNat = s.passSerial.toNat + 1) ∨
    ∃ p, c = .wipe p ∧ t.passSerial = 0 ∧ t.mode = .wiping) ∧
  (t.resetScheduled = s.resetScheduled ∨ ∃ p, c = .deviceReset p ∧ t.resetScheduled = true)

theorem State.control_eq {s t : State} : t.control = s.control ↔ t.mode = s.mode ∧ t.config = s.config ∧
    t.clock = s.clock ∧ t.passSerial = s.passSerial ∧ t.resetScheduled = s.resetScheduled := by
  simp only [State.control, Prod.mk.injEq]

theorem ControlStep.of_control {c : Instr} {s t : State} (h : t.control = s.control) : ControlStep c s t := by
  obtain ⟨hmode, hconfig, hclock, hserial, hreset⟩ := State.control_eq.mp h
  exact ⟨.inl hmode, .inl hconfig, .inl hclock, .inl hserial, .inl hreset⟩

theorem ControlStep.congr {c : Instr} {s s' t t' : State} (h : ControlStep c s t) (hs : s.control = s'.control)
    (ht : t'.control = t.control) : ControlStep c s' t' := by
  obtain ⟨hsm, hsf, hsc, hsp, hsr⟩ := State.control_eq.mp hs
  obtain ⟨htm, htf, htc, htp, htr⟩ := State.control_eq.mp ht
  unfold ControlStep at h ⊢
  rwa [htm, htf, htc, htp, htr, ← hsm, ← hsf, ← hsc, ← hsp, ← hsr]

theorem Moves.control {r : RunNo} {w : WandPort} {s t : State} (h : Moves r w s t) : t.control = s.control :=
  State.control_eq.mpr ⟨h.mode, h.config, h.clock, h.passSerial, h.resetScheduled⟩

@[simp] theorem State.updatePort_control (s : State) (p : Port) (f : LinkPort → LinkPort) :
    (s.updatePort p f).control = s.control := rfl

@[simp] theorem State.kick_control (s : State) : s.kick.control = s.control := rfl

@[simp] theorem State.abandon_control (s : State) (r : RunNo) (y : Reason) : (s.abandon r y).control = s.control :=
  State.control_eq.mpr (by simp)

@[simp] theorem State.releaseClaim_control (s : State) (r : RunNo) (y : Reason) :
    (s.releaseClaim r y).control = s.control := State.control_eq.mpr (by simp)

@[simp] theorem State.settle_control (s : State) : s.settle.control = s.control :=
  s.settle_view State.control (fun _ => rfl) fun t r => t.releaseClaim_control r _

@[simp] theorem State.receive_control (s : State) (p : Port) (l : List Byte) : (s.receive p l).control = s.control :=
  State.control_eq.mpr (by simp)

theorem State.resetWand_control (s : State) (w : WandPort) : (s.resetWand w).control = s.control :=
  State.resetWand_view State.control (fun t r => t.abandon_control r _) (fun _ _ _ => rfl) s w

/-- What an admitted request makes of the control state. -/
theorem Change.control {s t : State} {c : Instr} (h : Change s c t) : ControlStep c s t := by
  cases h with
  | configure p a b d e f params hp hm =>
    exact ⟨.inl rfl, .inr ⟨p, a, b, d, e, f, rfl, hm⟩, .inl rfl, .inl rfl, .inl rfl⟩
  | enter c m hm => exact ⟨.inr hm, .inl rfl, .inl rfl, .inl rfl, .inl rfl⟩
  | close p hm => exact ⟨.inr ⟨hm, rfl⟩, .inl rfl, .inl rfl, .inl rfl, .inl rfl⟩
  | wipe p hm =>
    exact ⟨.inr ⟨hm, rfl⟩, .inl rfl, .inr (.inr ⟨p, rfl, rfl, rfl⟩), .inr (.inr ⟨p, rfl, rfl, rfl⟩), .inl rfl⟩
  | deviceReset p => exact ⟨.inl rfl, .inl rfl, .inl rfl, .inl rfl, .inr ⟨p, rfl, rfl⟩⟩
  | claim c p w i r x hc hp hm hr hx hfree hserial =>
    have hnext : (s.passSerial + 1).toNat = s.passSerial.toNat + 1 := by
      have hlt := s.passSerial.isLt
      simp only [Config.serialMax] at hserial
      rw [BitVec.toNat_add]
      exact Nat.mod_eq_of_lt (by simp; omega)
    refine ⟨.inl rfl, .inl rfl, .inl rfl, .inr (.inl ⟨?_, hm, hnext⟩), .inl rfl⟩
    exact hc.imp (fun ⟨i, hi⟩ => ⟨p, i, hi⟩) fun hn => ⟨p, hn⟩
  | loadItem => exact .of_control (State.control_eq.mpr (by simp [State.withItem, State.addEntry]))
  | forceRelease p run r => exact .of_control (s.releaseClaim_control r _)
  | divert => exact .of_control (State.control_eq.mpr (by simp [State.diverted]))
  | sight p xs w r => exact .of_control (sightAll_moves s r w xs).control
  | runEnd p run w r x k =>
    have hjudge := (judgePassEnd_moves (s := s) (r := r) (w := w) k.pass).control
    exact .of_control ((State.control_eq.mpr (by simp [State.passEnded])).trans hjudge)
  | runAbandon p run w r => exact .of_control (s.abandon_control r _)
  | resume => exact .of_control (State.control_eq.mpr (by simp [State.resumed]))
  | loan p tag i e => exact .of_control (lent_moves s 0 .lp0 i e).control
  | takeBack p tag i e => exact .of_control (takenBack_moves s 0 .lp0 i e).control
  | _ => exact .of_control rfl

theorem request_control {c : Instr} {p : Port} {k : RequestKind} {payload : List Byte}
    (hc : c.request = some (p, k, payload)) (s : State) : ControlStep c s (request c (serving c) s) := by
  cases hlow : s.pins.resetLow with
  | true => exact .of_control (by simp [request, hc, hlow])
  | false =>
    obtain ⟨f, g, t, ht, hserved⟩ := request_served hc hlow (serving c)
    rw [ht]
    obtain rfl | ⟨hrole, hmode, rfl⟩ := hserved
    · exact .of_control (by simp)
    · exact (serving_change (s := s.settle.updatePort p f) hc hrole hmode).control.congr (by simp) rfl

/-- What an event makes of the control state, where no reset of the part takes effect. -/
theorem effect_control {c : Instr} {f : State → State} (hc : effect c = some f) {s : State}
    (hport : c = .portReset .lp5 → s.resetScheduled = false)
    (hsent : c = .deviceResetEffect ∨ c = .transmitFrameEnd .lp5 → s.sendsResetResponse = false) :
    ControlStep c s (f s) := by
  cases c <;> cases hc
  case closeCompletion =>
    unfold State.completeClose
    split_ifs with hm
    · exact ⟨.inr ⟨hm, by simp⟩, .inl (by simp), .inl (by simp), .inl (by simp), .inl (by simp)⟩
    · exact .of_control rfl
  case wipeCompletion =>
    unfold State.completeWipe
    split_ifs with hm
    · exact ⟨.inr ⟨hm, by simp⟩, .inl (by simp), .inl (by simp), .inl (by simp), .inl (by simp)⟩
    · exact .of_control rfl
  case deviceResetEffect => exact .of_control (by rw [State.takeDeviceReset, hsent (.inl rfl)]; rfl)
  case sectionClockAdvance =>
    cases hm : s.mode with
    | counting =>
      refine ⟨.inl (by simp), .inl (by simp), .inr (.inl ⟨rfl, ?_, .inl hm⟩), .inl (by simp), .inl (by simp)⟩
      simp [State.advance, hm]
    | paused =>
      refine ⟨.inl (by simp), .inl (by simp), .inr (.inl ⟨rfl, ?_, .inr hm⟩), .inl (by simp), .inl (by simp)⟩
      simp only [State.advance, hm]
    | _ => exact .of_control (by simp only [State.advance, hm])
  case claimExpiry => exact .of_control rfl
  case frameReceived p bytes => exact .of_control (s.receive_control p _)
  case frameRejected p =>
    refine .of_control ?_
    dsimp only [State.rejectFrame]
    split
    · rfl
    split <;> rfl
  case frameTimeout => exact .of_control rfl
  case transmitFrameEnd p =>
    refine .of_control ?_
    dsimp only [State.transmitEnd]
    rw [if_neg]
    · rfl
    rintro ⟨rfl, hsends⟩
    rw [hsent (.inr rfl)] at hsends
    cases hsends
  case portReset p =>
    refine .of_control ?_
    dsimp only [State.takeBreak]
    split_ifs
    · rfl
    dsimp only [State.resetPort]
    rw [if_neg]
    · cases p.wand? with
      | none => rfl
      | some w => exact State.resetWand_control _ w
    rintro ⟨rfl, hawaited⟩
    exact absurd ((hport rfl).symm.trans hawaited) Bool.false_ne_true
  case startByte p => exact .of_control (s.receive_control p _)
  case frameLengthInvalid p length => exact .of_control (s.receive_control p _)
  case breakEnd => exact .of_control rfl
  case receiveEnable =>
    refine .of_control ?_
    dsimp only [State.enableReceive]
    split <;> rfl

theorem event_control {c : Instr} {f : State → State} (hc : effect c = some f) {s : State}
    (hport : c = .portReset .lp5 → s.resetScheduled = false)
    (hsent : c = .deviceResetEffect ∨ c = .transmitFrameEnd .lp5 → s.settle.sendsResetResponse = false) :
    ControlStep c s (event f s) := by
  unfold event
  split_ifs
  · exact .of_control rfl
  · have hsettled : s.settle.resetScheduled = s.resetScheduled := by simp
    exact (effect_control hc (fun h => hsettled.trans (hport h)) hsent).congr s.settle_control rfl

/-- Settles O59: request by request and event by event, where no reset of the part takes effect. -/
theorem onlyTheirCommandsChangeTheControlState : Obligations.OnlyTheirCommandsChangeTheControlState := by
  intro c s t ht hleaves
  change ControlStep c s t
  cases taken_of_exec ht with
  | request hc => exact request_control hc s
  | event hc =>
    refine event_control hc ?_ ?_
    · rintro rfl
      obtain h | ⟨h, -⟩ | ⟨-, h⟩ | ⟨h | h, -⟩ := hleaves
      · cases h
      · cases h
      · exact h
      · cases h
      · cases h
    · intro h
      obtain ⟨hquiet, hsent⟩ : s.Quiet ∧ s.sendsResetResponse = false := by
        rcases h with rfl | rfl
        · obtain h | ⟨h, -⟩ | ⟨h, -⟩ | ⟨-, h⟩ := hleaves
          · cases h
          · cases h
          · cases h
          · exact h
        · obtain h | ⟨h, -⟩ | ⟨h, -⟩ | ⟨-, h⟩ := hleaves
          · cases h
          · cases h
          · cases h
          · exact h
      rw [State.settle_quiet hquiet.2]
      exact hsent
  | level p low => exact .of_control rfl
  | reset pins hc =>
    obtain h | ⟨rfl, hhigh⟩ | ⟨rfl, -⟩ | ⟨rfl | rfl, -⟩ := hleaves
    · obtain rfl | rfl | ⟨rfl, -⟩ := hc <;> cases h
    · obtain h | h | ⟨-, hlow⟩ := hc
      · cases h
      · cases h
      · rw [hhigh] at hlow
        cases hlow
    · simp at hc
    · simp at hc
    · simp at hc
  | release => exact .of_control rfl

end Sys2Proof.Machine
end

section
/-! PROOFS. What a request of one wand leaves of the other wands. -/
namespace Sys2Proof.Machine

/-! ## Claims of other runs -/

/-- A claim whose pass has no pending entry. -/
def Claim.withdrawn (k : Claim) : Claim := { k with pass := { k.pass with pendingEntry := none } }

/-- A claim is left as it was, or loses its pending entry. -/
def Loses (a b : Option Claim) : Prop := b = a ∨ b = a.map Claim.withdrawn

theorem Loses.trans {a b c : Option Claim} (h : Loses a b) (h' : Loses b c) : Loses a c := by
  obtain rfl | rfl := h
  · exact h'
  · obtain rfl | rfl := h'
    · exact .inr rfl
    · exact .inr (Option.map_map ..)

theorem State.claim_of_runs {s t : State} (h : t.runs = s.runs) (r : RunNo) : t.claim? r = s.claim? r := by
  rw [State.claim?, State.claim?, State.run, State.run, h]

theorem State.claim_of_run {s t : State} {r : RunNo} (h : t.run r = s.run r) : t.claim? r = s.claim? r := by
  rw [State.claim?, State.claim?, h]

theorem State.claim_updateRun_ne (s : State) {q r : RunNo} (h : r ≠ q) (f : LoadedRun → LoadedRun) :
    (s.updateRun q f).claim? r = s.claim? r :=
  State.claim_of_run ((s.run_updateRun q r f).trans (if_neg h))

theorem State.claim_updateRun_same (s : State) (q r : RunNo) {f : LoadedRun → LoadedRun}
    (hf : ∀ x, (f x).stage = x.stage) : (s.updateRun q f).claim? r = s.claim? r := by
  rw [State.claim?, State.claim?, State.run_updateRun]
  split_ifs with h
  · rw [h]
    cases s.run q with
    | none => rfl
    | some x => exact congrArg Stage.claim? (hf x)
  · rfl

theorem State.withdraw_claim (s : State) (i : Nat) (r : RunNo) : Loses (s.claim? r) ((s.withdraw i).claim? r) := by
  unfold State.withdraw
  split
  · rw [State.updatePass, State.claim_updateClaim]
    split_ifs with h
    · exact .inr (h ▸ rfl)
    · exact .inl rfl
  · exact .inl rfl

theorem State.setStatus_claim (s : State) (i : Nat) (st : Status) (r : RunNo) :
    (s.setStatus i st).claim? r = s.claim? r := by
  unfold State.setStatus
  split
  · split_ifs
    · rfl
    · refine (State.claim_updateRun_same _ _ _ ?_).trans (State.claim_of_runs (State.updateEntry_runs ..) r)
      exact fun _ => rfl
  · rfl

/-- Moves in the pass of one run take no more from the claim of another than its pending entry. -/
theorem Moves.claim_ne {s t : State} {q r : RunNo} {w : WandPort} (h : Moves q w s t) (hr : r ≠ q) :
    Loses (s.claim? r) (t.claim? r) := by
  refine h.keep (P := fun u => Loses (s.claim? r) (u.claim? r)) (fun a b hab ha => ha.trans ?_) (.inl rfl)
  cases hab with
  | offer d => exact .inl (State.claim_of_runs (by simp) r)
  | prompt n => exact .inl (State.claim_of_runs (by simp) r)
  | entry i f hf => exact .inl (State.claim_of_runs (by simp) r)
  | addStray y => exact .inl (State.claim_of_runs (by simp) r)
  | strays f => exact .inl (State.claim_of_runs rfl r)
  | status i st => exact .inl (a.setStatus_claim i st r)
  | withdraw i => exact a.withdraw_claim i r
  | pass f hf => exact .inl ((a.claim_updateClaim q r _).trans (if_neg hr))
  | accept n => exact .inl ((a.claim_updateClaim q r _).trans (if_neg hr))

/-! ## Ports of other wands -/

theorem State.port_of_ports {s t : State} (h : t.ports = s.ports) (p : Port) : t.port p = s.port p := by
  rw [State.port, State.port, h]

section
variable {s t : State} {w : WandPort} {p : Port} (hw : p ≠ w.port) (h5 : p ≠ .lp5)
include h5

theorem State.port_notify_ne (s : State) (n : HeldNotice) : (s.notify .lp5 n).port p = s.port p :=
  (s.port_notify .lp5 p n).trans (if_neg h5)

theorem State.port_offer_ne (s : State) (d : Discrepancy) : (s.offer d).port p = s.port p := by
  rw [State.port, State.offer_ports, PortMap.get_set_ne _ _ h5]
  rfl

theorem State.port_addStray_ne (s : State) (y : Stray) : (s.addStray y).port p = s.port p := by
  unfold State.addStray
  dsimp only
  split_ifs
  · exact State.port_notify_ne h5 _ _
  · rfl

theorem State.port_abandon_ne (s : State) (r : RunNo) (y : Reason) : (s.abandon r y).port p = s.port p := by
  cases hc : s.claim? r with
  | none => rw [State.abandon_free hc]
  | some k =>
    obtain ⟨x, hr, hg⟩ := State.claim_some.mp hc
    rw [State.port, State.abandon_ports hr (Stage.claim_some.mpr hg), PortMap.get_set_ne _ _ h5]
    rfl

include hw

theorem Moves.port_ne {r : RunNo} (h : Moves r w s t) : t.port p = s.port p := by
  refine h.view (State.port · p) fun a b hab => ?_
  cases hab with
  | offer d => exact a.port_offer_ne h5 d
  | prompt n => exact (a.port_prompt w p n).trans (if_neg hw)
  | addStray y => exact a.port_addStray_ne h5 y
  | entry i f hf => exact State.port_of_ports (by simp) p
  | status i st => exact State.port_of_ports (by simp) p
  | withdraw i => exact State.port_of_ports (by simp) p
  | pass f hf => exact State.port_of_ports (by simp) p
  | accept n => exact State.port_of_ports (by simp) p
  | strays f => rfl

end

/-! ## The changes of one wand -/

theorem wandPort_ne {v w : WandPort} (h : v ≠ w) : v.port ≠ w.port := fun hport =>
  h (Option.some.inj ((wand_port v).symm.trans ((congrArg Port.wand? hport).trans (wand_port w))))

section
variable {s t : State} {w v : WandPort} {c : Instr} (h : WandChange s w c t) (hv : v ≠ w)
include h hv

theorem WandChange.wand_ne : t.wand v = s.wand v := by
  cases h with
  | none => rfl
  | window c k payload f => exact (s.wand_updateContext w v f).trans (if_neg hv)
  | claim c i r x => exact (State.wand_updateContext _ w v _).trans (if_neg hv)
  | sight xs r => rw [State.wand, State.wand, (sightAll_moves s r w xs).wands]
  | runEnd run r x k g last outcome =>
    exact (State.passEnded_wand s r w v k g last outcome).trans (if_neg hv)
  | runAbandon run r x k hr hx hk =>
    exact (State.wand_abandon hr (Stage.claim_some.mpr (.inl hx)) _ v).trans (if_neg (hk ▸ hv))
  | resume top rest =>
    exact (State.wand_resumeRun _ _ v).trans ((s.wand_setWand w v _).trans (if_neg hv))

theorem WandChange.port_ne : t.port v.port = s.port v.port := by
  have hw : v.port ≠ w.port := wandPort_ne hv
  have h5 : v.port ≠ .lp5 := by cases v <;> exact nofun
  cases h with
  | none => rfl
  | window => rfl
  | claim => exact State.port_of_ports (by simp) _
  | sight xs r => exact (sightAll_moves s r w xs).port_ne hw h5
  | runEnd run r x k g last outcome =>
    refine (State.port_notify_ne h5 _ _).trans
      ((State.port_of_ports (s := s.judgePassEnd r w k.pass) (by simp) _).trans ?_)
    exact (judgePassEnd_moves (r := r) (w := w) k.pass).port_ne hw h5
  | runAbandon run r => exact s.port_abandon_ne h5 r _
  | resume => exact State.port_of_ports (by simp [State.resumed]) _

/-- A run that another wand claims is none that the wand's change is about. -/
theorem WandChange.claim_ne (hs : s.ClaimsAgree) {r : RunNo} {j : Claim} (hj : s.claim? r = some j)
    (hjv : j.claimant = v) : Loses (s.claim? r) (t.claim? r) := by
  have hne {q : RunNo} {k : Claim} (hk : s.claim? q = some k) (hkw : k.claimant = w) : r ≠ q := by
    rintro rfl
    obtain rfl := Option.some.inj (hj.symm.trans hk)
    exact hv (hjv.symm.trans hkw)
  cases h with
  | none => exact .inl rfl
  | window => exact .inl rfl
  | claim c i q x hc hm hq hx =>
    have hr : r ≠ q := by
      rintro rfl
      rw [State.claim?, hq] at hj
      rcases hx with hx | hx <;> simp [hx, Stage.claim?] at hj
    exact .inl (State.claim_of_run ((State.run_setRun _ q r _).trans (if_neg hr)))
  | sight xs q hq =>
    obtain ⟨x, k, hx, hg, hk⟩ := (hs.claimed q w).mp hq
    exact (sightAll_moves s q w xs).claim_ne (hne (State.claim_some.mpr ⟨x, hx, .inl hg⟩) hk)
  | runEnd run q x k g last outcome hx hg hk =>
    have hr : r ≠ q := hne (State.claim_some.mpr ⟨x, hx, .inl hg⟩) hk
    exact ((judgePassEnd_moves (w := w) k.pass).claim_ne hr).trans (.inl (State.claim_updateRun_ne _ hr _))
  | runAbandon run q x k hx hg hk =>
    have hr : r ≠ q := hne (State.claim_some.mpr ⟨x, hx, .inl hg⟩) hk
    exact .inl (State.claim_of_run (s.run_abandon_ne q _ hr))
  | resume top rest hfree hstack =>
    cases htop : top.claimedRun with
    | none => exact .inl (by rw [State.resumed, htop]; rfl)
    | some q =>
      obtain ⟨x, k, hx, hg, hk⟩ := (hs.held q w).mp ⟨top, by simp [hstack], htop⟩
      have hr : r ≠ q := hne (State.claim_some.mpr ⟨x, hx, .inr hg⟩) hk
      rw [State.resumed, htop]
      exact .inl (State.claim_updateRun_ne _ hr _)

end

/-! ## What a wand's request spares -/

/-- A wand's context store, its port and its claims are as they were, but for withdrawals from its passes. -/
structure Spares (v : WandPort) (s t : State) : Prop where
  wand : t.wand v = s.wand v
  port : t.port v.port = s.port v.port
  claim : ∀ r j, s.claim? r = some j → j.claimant = v → Loses (s.claim? r) (t.claim? r)

theorem Spares.trans {v : WandPort} {s t u : State} (h : Spares v s t) (h' : Spares v t u) : Spares v s u where
  wand := h'.wand.trans h.wand
  port := h'.port.trans h.port
  claim r j hj hv := by
    have hlost := h.claim r j hj hv
    refine hlost.trans ?_
    obtain ht | ht := hlost <;> rw [hj] at ht
    · exact h'.claim r j ht hv
    · exact h'.claim r j.withdrawn ht hv

theorem Spares.updatePort {v w : WandPort} (hv : v ≠ w) (s : State) (f : LinkPort → LinkPort) :
    Spares v s (s.updatePort w.port f) :=
  ⟨rfl, s.port_updatePort_ne f (wandPort_ne hv), fun _ _ _ _ => .inl rfl⟩

theorem serveSetMask_updatePort (p : Port) (kinds : U16) (s : State) :
    ∃ f, (serveSetMask p kinds s).state = s.updatePort p f := by
  unfold serveSetMask
  split
  · exact ⟨id, (s.updatePort_id p).symm⟩
  · next mask _ => exact ⟨fun q => { q with mask := mask }, rfl⟩

/-- An admitted request of a wand spares the other wands. -/
theorem serving_spares {c : Instr} {w v : WandPort} {k : RequestKind} {payload : List Byte} {s : State}
    (hc : c.request = some (w.port, k, payload)) (hrole : k.inRole .wand = true) (hm : k.modeTest s.mode = none)
    (hs : s.ClaimsAgree) (hv : v ≠ w) : Spares v s (serving c s).state := by
  have spares {t : State} (h : WandChange s w c t) : Spares v s t :=
    ⟨h.wand_ne hv, h.port_ne hv, fun _ _ hj hjv => h.claim_ne hv hs hj hjv⟩
  have wand {serve : WandPort → State → Served} (hserve : serving c = asWand w.port serve)
      (h : WandChange s w c (serve w s).state) : Spares v s (serving c s).state := by
    rw [hserve, asWand_port]
    exact spares h
  cases c <;> cases hc
  case setWindow a b => exact wand rfl (serveSetWindow_change a b w)
  case setDirection d => exact wand rfl (serveSetDirection_change d w)
  case claim index => exact wand rfl (serveClaim_change index w (by simpa using modeAmong_none hm))
  case claimNext => exact wand rfl (serveClaimNext_change w (by simpa using modeAmong_none hm))
  case sight xs => exact wand rfl (serveSight_change xs w)
  case runEnd run => exact wand rfl (serveRunEnd_change run w)
  case runAbandon run => exact wand rfl (serveRunAbandon_change run w)
  case resume => exact wand rfl (serveResume_change w)
  case queryRun index => exact wand rfl ((serveQueryRun_state s index w).symm ▸ .none _)
  case queryItem tag => exact spares ((serveQueryItem_state s tag).symm ▸ .none _)
  case setMask kinds =>
    obtain ⟨f, hf⟩ := serveSetMask_updatePort w.port kinds s
    rw [serving, hf]
    exact .updatePort hv s f
  all_goals cases hrole

/-- Settles O60: the request touches its own port, and its serving spares the other wands. -/
theorem wandsDoNotDisturbOneAnother : Obligations.WandsDoNotDisturbOneAnother := by
  intro c w v k payload s t hc hq hs ht hv
  obtain ⟨f, g, u, hu, hserved⟩ := request_served hc hq.1 (serving c)
  rw [State.settle_quiet hq.2] at hserved
  have harrived : Spares v s (s.updatePort w.port f) := .updatePort hv s f
  have hspares : Spares v s u := by
    obtain rfl | ⟨hrole, hm, rfl⟩ := hserved
    · exact harrived
    · rw [role_port] at hrole
      exact harrived.trans (serving_spares hc hrole hm (hs.of_wands rfl rfl) hv)
  have hafter := hspares.trans (.updatePort hv u g)
  obtain rfl : t = (u.updatePort w.port g).kick := by
    rw [← hu]
    exact (Host.Outcome.next.inj ((exec_request hc s).symm.trans ht)).symm
  refine ⟨hafter.wand, (State.port_kick _ _).trans (congrArg LinkPort.choose hafter.port), fun r j hj hjv => ?_⟩
  have hlost := hafter.claim r j hj hjv
  rw [hj] at hlost
  exact hlost

end Sys2Proof.Machine
end
